-- ==== Sys2Proof/Word.lean ====
section
/-! DEFINITION. The word types of the pins (00_scope.md R6, R7): a level, a byte, the 16 data lines,
the 20 address lines. -/

namespace Sys2Proof

/-- The level of one pin: `false` is the source's "0" or "Logic 0", `true` its "1" (R7, R8). -/
abbrev Level := Bool

/-- Eight bits: one lane of the data bus, one byte of memory. -/
abbrev Byte := BitVec 8

/-- The 16 data lines D15..D0 (`DATA_BITS` of R6). -/
abbrev Word16 := BitVec 16

/-- The 20 address lines A19..A0 (`ADDR_BITS` of R6). -/
abbrev Addr := BitVec 20

end Sys2Proof
end

