-- ==== Sys2Proof/Config.lean ====
section
/-! DEFINITION. The configuration record `Cfg` (00_scope.md R6) and the free values (`draw`, R9): opaque
constants without a body, which the step applies to the count of draws already used. -/

namespace Sys2Proof

/-- The two pin configurations (R10, R30). -/
inductive Mode where
  /-- Minimum mode: the 8086 drives the control signals itself. -/
  | min
  /-- Maximum mode: S2# S1# S0#, LOCK#, QS1 QS0, and an 8288. -/
  | max
deriving DecidableEq, Repr

/-- The implementation parameters that R6 leaves open. `ADDR_BITS` and `DATA_BITS` are fixed by the types
`Addr` and `Word16`. -/
structure Cfg where
  /-- `mode`, fixed for a whole run (R30, D2). -/
  mode : Mode
  /-- `IO_ADDR_BITS`, 1 to 20 (D8). -/
  ioAddrBits : Nat
  /-- `QUEUE_DEPTH`, at least 2 (D12). -/
  queueDepth : Nat
  /-- `INTA_CYCLES`, at least 1 (D20). -/
  intaCycles : Nat
  /-- `split_odd_word` (D5). -/
  splitOddWord : Bool
  /-- `other_master` (D11). -/
  otherMaster : Bool
deriving DecidableEq, Repr

namespace Config

/-- Free value: A19..A0 of an INTA or HALT cycle (U3; R162, R165). U3 also names PASSIVE, whose record holds no
address (R169; log 34). -/
opaque cycleAddress : Nat → BitVec 20

/-- Free value: the level of BHE# of an INTA or HALT cycle (U3; R144); of PASSIVE see log 34. -/
opaque cycleBheN : Nat → Bool

/-- Free value: the level of S4 in the status phase of a HALT cycle (U4; R165). -/
opaque haltS4 : Nat → Bool

/-- Free value: the level of S3 in the status phase of a HALT cycle (U4; R165). -/
opaque haltS3 : Nat → Bool

/-- Free value: the byte `IO_ENV` answers an INTA cycle with (U7; R162). -/
opaque intaByte : Nat → BitVec 8

/-- Free value: the byte `IO_ENV` answers a read of a port with (U6; R76). -/
opaque portByte : Nat → BitVec 20 → BitVec 8

/-- Free value: what the 8086 drives on the lane a byte write does not select (U2; R73). -/
opaque idleLane : Nat → BitVec 8

/-- Free value: the level of M/IO# in a minimum-mode PASSIVE step (U25; R176). -/
opaque passiveMIo : Nat → Bool

/-- Free value: the level of DT/R# in a minimum-mode PASSIVE step (U25; R176). -/
opaque passiveDtR : Nat → Bool

/-- Free value: the 8288's DT/R* on a code for which R182 states no level (011 and 111), by the code. -/
opaque controllerDtR : BitVec 3 → Bool

/-- Free value: the 8288's MCE/PDEN#, which R184 names and gives no level, by the code. -/
opaque controllerMce : BitVec 3 → Bool

end Config

end Sys2Proof
end

