-- ==== Sys2Proof/Syntax.lean ====
section
/-! DEFINITION. The codes the pins carry (00_scope.md R10, 30_encoding.md R107) as the one inductive `Instr`,
their formats (R101 to R106), and what the environment hands the bus interface: the bus request (R11), the
access primitives' arguments (R72 to R74), the inputs of EU_ENV (R20, R205) and of OTHER (R244). -/

namespace Sys2Proof

/-- One constructor per row of spec/opcode_table.json. No format has an operand field (R108). -/
inductive Instr where
  /-- S2# S1# S0# = 000, "INTA" / "Interrupt acknowledge" (R162). -/
  | inta
  /-- 001, "read I/O port" / "I/O read" (R163). -/
  | iord
  /-- 010, "write I/O port" / "I/O write" (R164). -/
  | iowr
  /-- 011, "halt" / "Halt" (R165). -/
  | halt
  /-- 100, "code access" / "Opcode fetch" (R166). -/
  | fetch
  /-- 101, "read memory" / "Memory read" (R167). -/
  | memrd
  /-- 110, "write memory" / "Memory write" (R168). -/
  | memwr
  /-- 111, "none -passive" / "Passive" (R169). -/
  | passive
  /-- S4 S3 = 00, "Extra segment" (R135). -/
  | es
  /-- S4 S3 = 01, "Stack segment" (R136). -/
  | ss
  /-- S4 S3 = 10, "Code or no segment" (R137). -/
  | csNone
  /-- S4 S3 = 11, "Data segment" (R139). -/
  | ds
  /-- BHE# A0 = 00, "Whole word (16-bits)" (R146). -/
  | word
  /-- BHE# A0 = 01, "High byte to/from odd address" (R147). -/
  | highByte
  /-- BHE# A0 = 10, "Low byte to/from even address" (R148). -/
  | lowByte
  /-- BHE# A0 = 11, "No selection" (R149); the table's NONE. -/
  | noForm
  /-- QS1 QS0 = 00, "Queue is idle" (R211). -/
  | qIdle
  /-- QS1 QS0 = 01, "First byte of opcode" (R212). -/
  | qFirst
  /-- QS1 QS0 = 10, "Queue is empty" (R213). -/
  | qEmpty
  /-- QS1 QS0 = 11, "Subsequent byte of opcode" (R214). -/
  | qSubseq
  /-- The "LOCK: prefix" (R201). -/
  | lock
deriving DecidableEq, Repr

/-- The eight bus-cycle types (R10, R160). -/
inductive Kind where
  | inta | iord | iowr | halt | fetch | memrd | memwr | passive
deriving DecidableEq, Repr

/-- The four segment tags (R10, R134). -/
inductive Seg where
  | es | ss | csNone | ds
deriving DecidableEq, Repr

/-- The four transfer forms (R10, R140). -/
inductive Form where
  | word | highByte | lowByte | noForm
deriving DecidableEq, Repr

/-- The four queue operations (R10, R210). -/
inductive QOp where
  | qIdle | qFirst | qEmpty | qSubseq
deriving DecidableEq, Repr

/-- The groups of pins (and the prefix byte) a code stands on (R101 to R104, R106). -/
inductive Format where
  /-- S2# S1# S0#, 3 bits, maximum mode (R101). -/
  | s2s1s0
  /-- S4 S3, 2 bits, status phase (R102). -/
  | s4s3
  /-- BHE# A0, 2 bits, address phase (R103). -/
  | bhea0
  /-- QS1 QS0, 2 bits, maximum mode (R104). -/
  | qs1qs0
  /-- PREFIX8, 8 bits (R106). -/
  | prefixByte
deriving DecidableEq, Repr

/-- A code as it is presented: the group and the levels on it, the first-named pin first (R101). The four
formats share values, so the format is part of the code. -/
structure CodeWord where
  format : Format
  bits : List Level
deriving DecidableEq, Repr

/-- The bus request (R11). -/
structure BusReq where
  kind : Kind
  /-- A19..A0; for IORD and IOWR the port. -/
  addr : Addr
  /-- The level BHE# will take. -/
  bheN : Level
  seg : Seg
  /-- The IF flag at this cycle (R23). -/
  ifFlag : Level
  /-- Whether the instruction this cycle belongs to carries the LOCK: prefix. -/
  lock : Bool
  wdata : Word16
deriving DecidableEq, Repr

/-- Which access primitive (R72, R73, R74; "a fetch uses the same with kind = FETCH"). -/
inductive AccessKind where
  | memRead | memWrite | ioRead | ioWrite | fetch
deriving DecidableEq, Repr

/-- The arguments of an access primitive: `MemRead(addr, n)` and its like, with the caller's other fields. -/
structure Access where
  kind : AccessKind
  addr : Addr
  /-- `n = 2` when true, `n = 1` when false. -/
  wide : Bool
  /-- The value to write; a byte write uses its low byte. -/
  wdata : Word16
  seg : Seg
  ifFlag : Level
  lock : Bool
deriving DecidableEq, Repr

/-- One memory cycle of the second bus master (R244). -/
structure OtherReq where
  addr : Addr
  bheN : Level
  isWrite : Bool
  wdata : Word16
deriving DecidableEq, Repr

/-- What EU_ENV hands the bus interface for one step (R13, R20, R205). -/
inductive EnvInput where
  /-- A whole bus request: its kind's code is the code of the step, its `lock` says whether the instruction it
  belongs to carries the LOCK: prefix (R11). -/
  | cycle (r : BusReq)
  /-- A bus request of the instruction in progress: its `lock` is EU_ENV's prefix state (R14, R201; log 12). -/
  | instrCycle (r : BusReq)
  /-- A code on a group of pins; the current request stays on the other pins. -/
  | code (w : CodeWord)
  /-- The event LOCK_END (R205). -/
  | lockEnd
  /-- An access primitive, from its first cycle (R72 to R74); `lock` is the caller's. -/
  | access (a : Access)
  /-- An access primitive of the instruction in progress: `lock` is EU_ENV's prefix state (R14, R201; log 12). -/
  | instrAccess (a : Access)
  /-- The second cycle of an access split over two (R72, R73). -/
  | accessRest (a : Access)
  /-- An interrupt acknowledge: `INTA_CYCLES` consecutive INTA requests (R234). -/
  | acknowledge (r : BusReq)
deriving DecidableEq, Repr

/-- The agents that have a step of their own (R14). -/
inductive Agent where
  | biu | other
deriving DecidableEq, Repr

end Sys2Proof
end

