-- ==== Sys2Proof/WellFormed.lean ====
section
/-! DEFINITION. Well-formedness of a presented code (30_encoding.md R101 to R106), of a configuration
(92_eei_decisions.md, the table of open parameters) and of an instruction. -/

namespace Sys2Proof

/-- How many levels a code of each format has (R101 to R104, R106). -/
def Format.width : Format → Nat
  | .s2s1s0 => 3
  | .s4s3 => 2
  | .bhea0 => 2
  | .qs1qs0 => 2
  | .prefixByte => 8

/-- The code has as many levels as its group has pins; the four-digit "0010" does not (R109, C1). -/
def CodeWord.widthOk (w : CodeWord) : Bool := w.bits.length == w.format.width

/-- The one prefix byte the spec gives, F0h (R107, GK10). -/
def lockByte : List Level := [true, true, true, true, false, false, false, false]

/-- A code is well formed: its width is its format's, and a prefix byte is LOCK's. Every value of a pin
format is a code (R107, R109). -/
def CodeWord.wf (w : CodeWord) : Bool :=
  w.widthOk && (w.format != .prefixByte || w.bits == lockByte)

/-- `IO_ADDR_BITS` is a natural in 1..20. -/
def Cfg.ioAddrBitsOk (c : Cfg) : Bool := decide (1 ≤ c.ioAddrBits) && decide (c.ioAddrBits ≤ 20)

/-- `QUEUE_DEPTH` is at least 2, "so that a whole-word FETCH into an empty queue is never refused". -/
def Cfg.queueDepthOk (c : Cfg) : Bool := decide (2 ≤ c.queueDepth)

/-- `INTA_CYCLES` is at least 1. -/
def Cfg.intaCyclesOk (c : Cfg) : Bool := decide (1 ≤ c.intaCycles)

/-- A configuration is well formed. -/
def Cfg.wf (c : Cfg) : Bool := c.ioAddrBitsOk && c.queueDepthOk && c.intaCyclesOk

/-- An instruction has no operand (R108), so every one is well formed. -/
def Instr.wf : Instr → Bool
  | .inta | .iord | .iowr | .halt | .fetch | .memrd | .memwr | .passive => true
  | .es | .ss | .csNone | .ds => true
  | .word | .highByte | .lowByte | .noForm => true
  | .qIdle | .qFirst | .qEmpty | .qSubseq => true
  | .lock => true

end Sys2Proof
end

