-- ==== Sys2Proof/Decode.lean ====
section
/-! DEFINITION. The code tables of 30_encoding.md R107: the levels each code puts on its pins, the decoder
(total on any levels, rejecting by name), the encoder, the opcode table's own numbering, and the table
itself as masks and matches (R113). -/

namespace Sys2Proof

/-- Why a presented code is no instruction. -/
inductive DecodeReject where
  /-- The number of levels is not the format's (R109: "0010" is not a value of S2S1S0). -/
  | wrongWidth (f : Format) (given : Nat)
  /-- A prefix byte other than the one the spec gives (R106, R110). -/
  | unknownPrefixByte
deriving DecidableEq, Repr

/-! The levels of each code, group by group. -/

/-- The three levels of a bus-cycle type (R160). -/
structure KindCode where
  s2N : Level
  s1N : Level
  s0N : Level
deriving DecidableEq, Repr

/-- The two levels of a segment tag (R134). -/
structure TagCode where
  s4 : Level
  s3 : Level
deriving DecidableEq, Repr

/-- The two levels of a transfer form (R140). -/
structure FormCode where
  bheN : Level
  a0 : Level
deriving DecidableEq, Repr

/-- The two levels of a queue operation (R210). -/
structure QueueCode where
  qs1 : Level
  qs0 : Level
deriving DecidableEq, Repr

/-- R160: `pin.S2_n ++ pin.S1_n ++ pin.S0_n <- code(kind)`. -/
def Kind.code : Kind → KindCode
  | .inta => ⟨false, false, false⟩
  | .iord => ⟨false, false, true⟩
  | .iowr => ⟨false, true, false⟩
  | .halt => ⟨false, true, true⟩
  | .fetch => ⟨true, false, false⟩
  | .memrd => ⟨true, false, true⟩
  | .memwr => ⟨true, true, false⟩
  | .passive => ⟨true, true, true⟩

/-- The inverse of `Kind.code` (R160: a bijection). -/
def KindCode.kind : KindCode → Kind
  | ⟨false, false, false⟩ => .inta
  | ⟨false, false, true⟩ => .iord
  | ⟨false, true, false⟩ => .iowr
  | ⟨false, true, true⟩ => .halt
  | ⟨true, false, false⟩ => .fetch
  | ⟨true, false, true⟩ => .memrd
  | ⟨true, true, false⟩ => .memwr
  | ⟨true, true, true⟩ => .passive

/-- R134: `pin.S4 ++ pin.S3 <- code(seg)`. -/
def Seg.code : Seg → TagCode
  | .es => ⟨false, false⟩
  | .ss => ⟨false, true⟩
  | .csNone => ⟨true, false⟩
  | .ds => ⟨true, true⟩

/-- The inverse of `Seg.code` (R134: a bijection). -/
def TagCode.seg : TagCode → Seg
  | ⟨false, false⟩ => .es
  | ⟨false, true⟩ => .ss
  | ⟨true, false⟩ => .csNone
  | ⟨true, true⟩ => .ds

/-- R140: the levels of BHE# and A0 of a transfer form. -/
def Form.code : Form → FormCode
  | .word => ⟨false, false⟩
  | .highByte => ⟨false, true⟩
  | .lowByte => ⟨true, false⟩
  | .noForm => ⟨true, true⟩

/-- `FormOf(bhe_n, a0)` of R140, the inverse of `Form.code`. -/
def FormCode.form : FormCode → Form
  | ⟨false, false⟩ => .word
  | ⟨false, true⟩ => .highByte
  | ⟨true, false⟩ => .lowByte
  | ⟨true, true⟩ => .noForm

/-- R210: `pin.QS1 ++ pin.QS0 <- code(op)`. -/
def QOp.code : QOp → QueueCode
  | .qIdle => ⟨false, false⟩
  | .qFirst => ⟨false, true⟩
  | .qEmpty => ⟨true, false⟩
  | .qSubseq => ⟨true, true⟩

/-- The inverse of `QOp.code` (R210: a bijection). -/
def QueueCode.op : QueueCode → QOp
  | ⟨false, false⟩ => .qIdle
  | ⟨false, true⟩ => .qFirst
  | ⟨true, false⟩ => .qEmpty
  | ⟨true, true⟩ => .qSubseq

/-! The instruction that stands for each code. -/

/-- The instruction of a bus-cycle type. -/
def Kind.instr : Kind → Instr
  | .inta => .inta
  | .iord => .iord
  | .iowr => .iowr
  | .halt => .halt
  | .fetch => .fetch
  | .memrd => .memrd
  | .memwr => .memwr
  | .passive => .passive

/-- The instruction of a segment tag. -/
def Seg.instr : Seg → Instr
  | .es => .es
  | .ss => .ss
  | .csNone => .csNone
  | .ds => .ds

/-- The instruction of a transfer form. -/
def Form.instr : Form → Instr
  | .word => .word
  | .highByte => .highByte
  | .lowByte => .lowByte
  | .noForm => .noForm

/-- The instruction of a queue operation. -/
def QOp.instr : QOp → Instr
  | .qIdle => .qIdle
  | .qFirst => .qFirst
  | .qEmpty => .qEmpty
  | .qSubseq => .qSubseq

/-! The decoder and the encoder. -/

/-- Decode a presented code (R107). Total on any list of levels. -/
def decode (w : CodeWord) : Except DecodeReject Instr :=
  match w.format with
  | .s2s1s0 =>
    match w.bits with
    | [a, b, c] => .ok (KindCode.kind ⟨a, b, c⟩).instr
    | bs => .error (.wrongWidth .s2s1s0 bs.length)
  | .s4s3 =>
    match w.bits with
    | [a, b] => .ok (TagCode.seg ⟨a, b⟩).instr
    | bs => .error (.wrongWidth .s4s3 bs.length)
  | .bhea0 =>
    match w.bits with
    | [a, b] => .ok (FormCode.form ⟨a, b⟩).instr
    | bs => .error (.wrongWidth .bhea0 bs.length)
  | .qs1qs0 =>
    match w.bits with
    | [a, b] => .ok (QueueCode.op ⟨a, b⟩).instr
    | bs => .error (.wrongWidth .qs1qs0 bs.length)
  | .prefixByte =>
    if w.bits.length = 8 then
      if w.bits = lockByte then .ok .lock else .error .unknownPrefixByte
    else .error (.wrongWidth .prefixByte w.bits.length)

/-- The code word of a bus-cycle type. -/
def Kind.word (k : Kind) : CodeWord := ⟨.s2s1s0, [k.code.s2N, k.code.s1N, k.code.s0N]⟩

/-- The code word of a segment tag. -/
def Seg.word (t : Seg) : CodeWord := ⟨.s4s3, [t.code.s4, t.code.s3]⟩

/-- The code word of a transfer form. -/
def Form.codeWord (f : Form) : CodeWord := ⟨.bhea0, [f.code.bheN, f.code.a0]⟩

/-- The code word of a queue operation. -/
def QOp.word (q : QOp) : CodeWord := ⟨.qs1qs0, [q.code.qs1, q.code.qs0]⟩

/-- The code word of an instruction (R107). -/
def encode : Instr → CodeWord
  | .inta => Kind.word .inta
  | .iord => Kind.word .iord
  | .iowr => Kind.word .iowr
  | .halt => Kind.word .halt
  | .fetch => Kind.word .fetch
  | .memrd => Kind.word .memrd
  | .memwr => Kind.word .memwr
  | .passive => Kind.word .passive
  | .es => Seg.word .es
  | .ss => Seg.word .ss
  | .csNone => Seg.word .csNone
  | .ds => Seg.word .ds
  | .word => Form.codeWord .word
  | .highByte => Form.codeWord .highByte
  | .lowByte => Form.codeWord .lowByte
  | .noForm => Form.codeWord .noForm
  | .qIdle => QOp.word .qIdle
  | .qFirst => QOp.word .qFirst
  | .qEmpty => QOp.word .qEmpty
  | .qSubseq => QOp.word .qSubseq
  | .lock => ⟨.prefixByte, lockByte⟩

/-! The opcode table's numbering. -/

/-- The lowest `n` bits of a number as levels, the most significant first (R101: the first-named pin is the
most significant bit). -/
def levelsOf : Nat → Nat → List Level
  | 0, _ => []
  | n + 1, w => w.testBit n :: levelsOf n w

/-- The number a list of levels stands for, the first level the most significant. -/
def levelsValue (bs : List Level) : Nat := bs.foldl (fun v b => 2 * v + b.toNat) 0

/-- The code word a bare number of the opcode table stands for. The four pin formats share their values and
the number does not name its format, so this reads it in the first format of the table's order that has
room for it: two bits as S4S3, a value below 8 as S2S1S0, any other as PREFIX8 (DESIGN CHOICE, log 3). -/
def tableCodeWord (nbits w : Nat) : CodeWord :=
  if nbits = 2 then ⟨.s4s3, levelsOf 2 w⟩
  else if w < 8 then ⟨.s2s1s0, levelsOf 3 w⟩
  else ⟨.prefixByte, levelsOf 8 w⟩

/-- The instruction the decoder reads from a number of the opcode table. -/
def decodeTableWord (nbits w : Nat) : Option Instr :=
  if w < 2 ^ nbits then
    match decode (tableCodeWord nbits w) with
    | .ok i => some i
    | .error _ => none
  else none

/-- One row of the machine-readable table (R113). -/
structure TableRow where
  instr : Instr
  format : Format
  mask : Nat
  value : Nat
deriving DecidableEq, Repr

/-- The 21 rows of R107 and R113, as masks and matches. -/
def opcodeTable : List TableRow :=
  [⟨.inta, .s2s1s0, 7, 0⟩, ⟨.iord, .s2s1s0, 7, 1⟩, ⟨.iowr, .s2s1s0, 7, 2⟩, ⟨.halt, .s2s1s0, 7, 3⟩,
   ⟨.fetch, .s2s1s0, 7, 4⟩, ⟨.memrd, .s2s1s0, 7, 5⟩, ⟨.memwr, .s2s1s0, 7, 6⟩, ⟨.passive, .s2s1s0, 7, 7⟩]
  ++ [⟨.es, .s4s3, 3, 0⟩, ⟨.ss, .s4s3, 3, 1⟩, ⟨.csNone, .s4s3, 3, 2⟩, ⟨.ds, .s4s3, 3, 3⟩]
  ++ [⟨.word, .bhea0, 3, 0⟩, ⟨.highByte, .bhea0, 3, 1⟩, ⟨.lowByte, .bhea0, 3, 2⟩, ⟨.noForm, .bhea0, 3, 3⟩]
  ++ [⟨.qIdle, .qs1qs0, 3, 0⟩, ⟨.qFirst, .qs1qs0, 3, 1⟩, ⟨.qEmpty, .qs1qs0, 3, 2⟩, ⟨.qSubseq, .qs1qs0, 3, 3⟩]
  ++ [⟨.lock, .prefixByte, 255, 240⟩]

/-- A value of a format matches a row (R113: `value & mask == match`). -/
def TableRow.hits (r : TableRow) (f : Format) (v : Nat) : Bool :=
  r.format == f && (v &&& r.mask) == r.value

end Sys2Proof
end

