-- ==== Sys2Proof/Machine/State.lean ====
section
/-! DEFINITION. The machine's state as plain data: the spec's record (10_state.md R41), what the spec gives
EU_ENV (00_scope.md R14) and the step's outputs (R13), and the model's own fields for the environment's
inputs; the pin record (R12), the events of the history, the reasons a step can stop, the state at reset. -/

namespace Sys2Proof.Machine

/-- Faults. None exists: "There is no `Fault` outcome" (00_scope.md R13, D22), no cycle raises anything
(60_exceptions.md R230). Nothing raises one, so this is safe. -/
inductive Fault : Type
deriving DecidableEq, Repr

/-- Why a step is declined. A refusal is the model declining, not a behaviour of the chip (R13); each
removes runs whose meaning the spec does not give. -/
inductive Refusal where
  /-- Raised by an arm of `exec` whose instruction has no meaning yet. Safe. -/
  | notModelled (mnemonic : String)
  /-- `NoSelection`: a data-moving cycle with form NONE (R149; R163, R164, R166, R167, R168), or a cycle of
  OTHER with it (D11). Safe. -/
  | noSelection
  /-- `SegKindMismatch`: the tag is not one the kind may carry (R138). Unsafe for claims about the tags the
  chip drives: D4 says the refusal restricts the environment. -/
  | segKindMismatch
  /-- `OddWordNotSplit`: a word at an odd address with `split_odd_word = false` (R72). Safe. -/
  | oddWordNotSplit
  /-- `TopOfMemoryWord`: a split word at FFFFFh (R72). Safe. -/
  | topOfMemoryWord
  /-- `PortOutOfRange`: port bits above `IO_ADDR_BITS` (R163, R164). Unsafe for claims about A19..A16 in I/O
  cycles (D8). -/
  | portOutOfRange
  /-- `LockInMinMode`: `lock = 1`, or the LOCK: prefix, in minimum mode (R201, R203). Safe. -/
  | lockInMinMode
  /-- `QueueOverflow`: a FETCH that would exceed `QUEUE_DEPTH` (R166). Safe. -/
  | queueOverflow
  /-- `QueueUnderflow`: a take from an empty queue (R212, R214). Safe. -/
  | queueUnderflow
  /-- A queue operation or LOCK_END in minimum mode, where "the event does not exist" (R205, V38); the
  model's own name (log 14). Safe. -/
  | eventNotInMinMode
  /-- The presented code is no code of its format; the model's own name (log 29). Safe. -/
  | undecodable (why : DecodeReject)
deriving DecidableEq, Repr

/-- The address phase: A19..A0 and BHE# (R12, R26). -/
structure AddressPhase where
  a : Addr
  bheN : Level
deriving DecidableEq, Repr

/-- The status phase on the same five pins (R12, R26). -/
structure StatusPhase where
  s7 : Level
  s6 : Level
  s5 : Level
  s4 : Level
  s3 : Level
deriving DecidableEq, Repr

/-- The cycle-type pins of maximum mode and LOCK# (R12). -/
structure MaxPins where
  s2N : Level
  s1N : Level
  s0N : Level
  lockN : Level
deriving DecidableEq, Repr

/-- The control pins of minimum mode (R12, R176); `ale` is whether an address-latch pulse was given. -/
structure MinPins where
  mIo : Level
  dtR : Level
  rdN : Level
  wrN : Level
  denN : Level
  intaN : Level
  ale : Level
deriving DecidableEq, Repr

/-- "In a given `mode` only that mode's type fields exist" (R12). -/
inductive TypePins where
  | max (p : MaxPins)
  | min (p : MinPins)
deriving DecidableEq, Repr

/-- What the pins carried in one bus cycle (R12). A PASSIVE step has no address and no status phase (R169; log
34); a data lane is `none` when it carries nothing defined (R85). -/
structure PinRecord where
  address : Option AddressPhase
  status : Option StatusPhase
  typePins : TypePins
  dHi : Option Byte
  dLo : Option Byte
deriving DecidableEq, Repr

/-- One entry of the history (R41). -/
inductive Event where
  /-- A bus cycle of the 8086, or a PASSIVE step. -/
  | cycle (p : PinRecord)
  /-- A queue operation (R210). -/
  | queueOp (op : QOp)
  /-- LOCK_END (R205). -/
  | lockEnd
  /-- A cycle of the second bus master (R244), with what the two lanes carried. -/
  | other (a : Addr) (bheN : Level) (isWrite : Bool) (dHi dLo : Option Byte)
deriving DecidableEq, Repr

/-- Memory: address and byte pairs in the canonical form of `Memory.wf`. -/
abbrev Memory := List Host.Cell

/-- The state of the machine. -/
structure State where
  /-- The configuration, the same for a whole run (R6, R30). -/
  cfg : Cfg
  /-- The memory space (R37, R60). -/
  mem : Memory
  /-- The queue, its head the oldest byte (R39, R41). -/
  queue : List Byte
  /-- Whether LOCK# is held low (R39, R200). -/
  lockHeld : Bool
  /-- Every pin record, queue operation, LOCK_END and OTHER cycle, in order (R41). -/
  history : List Event
  /-- The read data the last bus cycle returned to EU_ENV (R13). -/
  rdata : Word16
  /-- The byte the last Q_FIRST or Q_SUBSEQ took (R212, R214). -/
  taken : Option Byte
  /-- What the last read primitive returned (R72). -/
  result : Word16
  /-- `r1.D_hi` of a split read between its two cycles (R72). -/
  half : Byte
  /-- The current request of EU_ENV: the operands on the other pins (R11, R108). -/
  req : BusReq
  /-- EU_ENV's "LOCK prefix state" (R14, R201): from the prefix to the first unlocked cycle or LOCK_END, "whichever
  comes first" (R200). -/
  lockPrefix : Bool
  /-- The model's own: what EU_ENV hands over next, in order (R20). -/
  pending : List EnvInput
  /-- The model's own: the cycles OTHER performs, in order (R244). -/
  otherPending : List OtherReq
  /-- The model's own: whose turn it is, step by step. -/
  turns : List Agent
  /-- The model's own: how many `draw` arguments have been used (R9, R13). -/
  draws : Nat
deriving DecidableEq, Repr

/-- The configuration `State.reset` stands on: the defaults of R6, and for the two fields R6 gives no default
(`mode`, `other_master`) the freer machine (DESIGN CHOICE, log 5). -/
def resetCfg : Cfg :=
  { mode := .max, ioAddrBits := 16, queueDepth := 6, intaCycles := 2, splitOddWord := true, otherMaster := true }

/-- A request of no bus cycle: what stands on the pins when EU_ENV asks for nothing (DESIGN CHOICE, log 8). -/
def idleRequest : BusReq :=
  { kind := .passive, addr := 0, bheN := false, seg := .csNone, ifFlag := false, lock := false, wdata := 0 }

/-- The initial state `State0` of a configuration, by the defaults of R42. -/
def State.initial (c : Cfg) : State :=
  { cfg := c, mem := [], queue := [], lockHeld := false, history := [], rdata := 0, taken := none, result := 0,
    half := 0, req := idleRequest, lockPrefix := false, pending := [], otherPending := [], turns := [], draws := 0 }

/-- The machine right after reset: the spec gives no reset value (R270), the defaults are R42's. -/
def State.reset : State := State.initial resetCfg

end Sys2Proof.Machine
end

