-- ==== Sys2Proof/Machine/Operands.lean ====
section
/-! DEFINITION. The operands of a bus cycle, which stand on other pins than its code (30_encoding.md R108):
the bank addresses and the lanes a request selects, its transfer form, the tags its kind may carry, its port,
and the request with another kind, tag or form on the pins. -/

namespace Sys2Proof.Machine

/-- The odd-bank byte of the word an address stands in: `A[19:1] ++ 1`, bit 0 set (R141, R65). -/
def hiAddr (a : Addr) : Addr := a ||| 1#20

/-- The even-bank byte of the word an address stands in: `A[19:1] ++ 0`, bit 0 clear (R141, R65). -/
def loAddr (a : Addr) : Addr := a &&& ~~~1#20

/-- Address bit A0. -/
def a0 (a : Addr) : Level := a.getLsbD 0

/-- `hi_sel := (BHE_n = 0)` (R141). -/
def hiSelected (bheN : Level) : Bool := !bheN

/-- `lo_sel := (A[0] = 0)` (R141). -/
def loSelected (a : Addr) : Bool := !(a0 a)

/-- `FormOf(bhe_n, addr[0])` (R140). -/
def formOf (bheN : Level) (a : Addr) : Form := FormCode.form ⟨bheN, a0 a⟩

/-- The high byte of 16 data bits, lane D15..D8. -/
def hiByte (w : Word16) : Byte := w.extractLsb' 8 8

/-- The low byte of 16 data bits, lane D7..D0. -/
def loByte (w : Word16) : Byte := w.extractLsb' 0 8

/-- Two lanes as 16 bits: `hi ++ lo`. -/
def joinBytes (hi lo : Byte) : Word16 := (hi.setWidth 16 <<< 8) ||| lo.setWidth 16

/-- Which tag each kind may carry (R138). HALT ignores the tag, PASSIVE has no status phase. -/
def tagAccepted : Kind → Seg → Bool
  | .fetch, t => t == .csNone
  | .iord, t => t == .csNone
  | .iowr, t => t == .csNone
  | .inta, t => t == .csNone
  | .memrd, _ => true
  | .memwr, _ => true
  | .halt, _ => true
  | .passive, _ => true

/-- `req.addr[19:IO_ADDR_BITS] = 0` (R62, R163). -/
def portInRange (c : Cfg) (a : Addr) : Bool := a.toNat >>> c.ioAddrBits == 0

end Sys2Proof.Machine

namespace Sys2Proof

open Machine

/-- The request with another `lock`: "every `BusReq` of the instruction it precedes has `lock = 1`" (R201). -/
def BusReq.withLock (r : BusReq) (b : Bool) : BusReq := { r with lock := b }

/-- The request as one of another kind (R160). -/
def BusReq.withKind (r : BusReq) (k : Kind) : BusReq := { r with kind := k }

/-- The request with another tag on S4 S3 (R134). -/
def BusReq.withSeg (r : BusReq) (t : Seg) : BusReq := { r with seg := t }

/-- The request with a form's levels on BHE# and A0; A19..A1 stay (R140: the form "cannot disagree with the
address"). -/
def BusReq.withForm (r : BusReq) (f : Form) : BusReq :=
  { r with bheN := f.code.bheN, addr := if f.code.a0 then hiAddr r.addr else loAddr r.addr }

/-! The access primitives as bus requests (20_memory.md R72 to R74). -/

/-- The bus-cycle type a primitive uses. -/
def AccessKind.kind : AccessKind → Kind
  | .memRead => .memrd
  | .memWrite => .memwr
  | .ioRead => .iord
  | .ioWrite => .iowr
  | .fetch => .fetch

/-- The tag of a primitive's requests: the caller's, and CS_NONE for the I/O primitives (R74). -/
def Access.tag (x : Access) : Seg :=
  match x.kind with
  | .ioRead | .ioWrite => .csNone
  | .memRead | .memWrite | .fetch => x.seg

/-- The primitive with another `lock` (R201). -/
def Access.withLock (x : Access) (b : Bool) : Access := { x with lock := b }

/-- A word at an odd address, which no one cycle moves (R70). -/
def Access.oddWord (x : Access) : Bool := x.wide && a0 x.addr

/-- The request of a primitive with the given address, BHE# level and write data. -/
def Access.request (x : Access) (a : Addr) (bheN : Level) (wdata : Word16) : BusReq :=
  { kind := x.kind.kind, addr := a, bheN := bheN, seg := x.tag, ifFlag := x.ifFlag, lock := x.lock, wdata := wdata }

/-- The first (or only) request of a primitive (R72, R73). `idle` is what the lane that is not selected
carries. -/
def Access.first (c : Cfg) (idle : Byte) (x : Access) : Except Refusal BusReq :=
  if x.oddWord then
    if !c.splitOddWord then .error .oddWordNotSplit
    else if x.addr = 0xFFFFF#20 then .error .topOfMemoryWord
    else .ok (x.request x.addr false (joinBytes (loByte x.wdata) idle))
  else if x.wide then .ok (x.request x.addr false x.wdata)
  else if a0 x.addr then .ok (x.request x.addr false (joinBytes (loByte x.wdata) idle))
  else .ok (x.request x.addr true (joinBytes idle (loByte x.wdata)))

/-- The second request of a split word (R72, R73). -/
def Access.second (idle : Byte) (x : Access) : BusReq :=
  x.request (x.addr + 1) true (joinBytes idle (hiByte x.wdata))

end Sys2Proof
end

