-- ==== Sys2Proof/Machine/Flags.lean ====
section
/-! DEFINITION. The levels on the status and control pins: the status phase (40_address_status_bhe.md R150),
the status words ST_HI, ST_LO and QS (10_state.md R24, 30_encoding.md R105), LOCK# (R200), and the
minimum-mode control signals (41_bus_cycle_types.md R176). -/

namespace Sys2Proof.Machine

/-- The status phase of a cycle with the given IF and levels of S4 S3: S7 is 1 (R145), S6 is 0 (R131), S5 is
IF (R132). -/
def statusPhase (ifFlag : Level) (t : TagCode) : StatusPhase :=
  { s7 := true, s6 := false, s5 := ifFlag, s4 := t.s4, s3 := t.s3 }

/-- `ST_HI = S7 S6 S5 S4 S3` as a number (R105). -/
def StatusPhase.stHi (p : StatusPhase) : BitVec 5 :=
  BitVec.ofNat 5 (levelsValue [p.s7, p.s6, p.s5, p.s4, p.s3])

/-- `ST_LO = S2# S1# S0#` as a number (R24, R101). -/
def MaxPins.stLo (p : MaxPins) : BitVec 3 := BitVec.ofNat 3 (levelsValue [p.s2N, p.s1N, p.s0N])

/-- `QS = QS1 QS0` as a number (R24, R104). -/
def QueueCode.qs (q : QueueCode) : BitVec 2 := BitVec.ofNat 2 (levelsValue [q.qs1, q.qs0])

/-- `LockLevel(st, req)`, the level of LOCK# (R200): a PASSIVE step keeps it, any other cycle shows its own
`lock`. -/
def lockLevel (lockHeld : Bool) (r : BusReq) : Level :=
  if r.kind = .passive then !lockHeld else !r.lock

/-- `lock_held` after a bus cycle (R200). -/
def lockHeldAfter (lockHeld : Bool) (r : BusReq) : Bool :=
  if r.kind = .passive then lockHeld else r.lock

/-- EU_ENV's prefix state after a bus cycle: a cycle with `lock = 0` "does not belong to a prefixed instruction",
so the prefixed instruction is over (R200; log 12). A PASSIVE step is no cycle. -/
def lockPrefixAfter (lockPrefix : Bool) (r : BusReq) : Bool :=
  if r.kind = .passive then lockPrefix else lockPrefix && r.lock

/-- The maximum-mode type pins of a cycle (R161). -/
def maxPins (lockHeld : Bool) (r : BusReq) : MaxPins :=
  { s2N := r.kind.code.s2N, s1N := r.kind.code.s1N, s0N := r.kind.code.s0N, lockN := lockLevel lockHeld r }

/-- `MinModeControls(kind)` (R176; PRESUMED, log 19). The two levels a PASSIVE step leaves open are the
draw's. -/
def minModeControls (draw : Nat) : Kind → MinPins
  | .inta => ⟨false, false, true, true, false, false, true⟩
  | .iord => ⟨false, false, false, true, false, true, true⟩
  | .iowr => ⟨false, true, true, false, false, true, true⟩
  | .halt => ⟨false, true, true, true, true, true, true⟩
  | .fetch => ⟨true, false, false, true, false, true, true⟩
  | .memrd => ⟨true, false, false, true, false, true, true⟩
  | .memwr => ⟨true, true, true, false, false, true, true⟩
  | .passive => ⟨Config.passiveMIo draw, Config.passiveDtR draw, true, true, true, true, false⟩

/-- The type pins of a cycle in the configured mode (R161). -/
def typePins (m : Mode) (lockHeld : Bool) (draw : Nat) (r : BusReq) : TypePins :=
  match m with
  | .max => .max (maxPins lockHeld r)
  | .min => .min (minModeControls draw r.kind)

end Sys2Proof.Machine
end

