-- ==== Sys2Proof/Machine/Ops.lean ====
section
/-! DEFINITION. The shared operations: memory (20_memory.md R60), the lane rules (R141), the bus cycle and its
eight kinds (41_bus_cycle_types.md R161 to R169), the queue operations and LOCK events
(42_lock_and_queue_status.md), the second master's cycle (60_exceptions.md R244), and what the bus interface
takes up next. The spec names no exception (R230); what it gives of an interrupt is the acknowledge
(R234), here `acknowledgeRequests`; it gives no return (R235). -/

namespace Sys2Proof.Machine

/-! Memory. -/

/-- What an unlisted address reads as: 00h (DESIGN CHOICE, log 7; R42 leaves the initial memory any value). -/
def Memory.unlisted : Byte := 0

/-- The byte at an address (R60). -/
def Memory.read : Memory → Nat → Byte
  | [], _ => Memory.unlisted
  | (k, v) :: m, a => if a = k then v else Memory.read m a

/-- Memory with one byte replaced; keeps the canonical form (R60). -/
def Memory.write : Memory → Nat → Byte → Memory
  | [], a, b => if b = Memory.unlisted then [] else [(a, b)]
  | (k, v) :: m, a, b =>
    if a < k then (if b = Memory.unlisted then (k, v) :: m else (a, b) :: (k, v) :: m)
    else if a = k then (if b = Memory.unlisted then m else (a, b) :: m)
    else (k, v) :: Memory.write m a b

/-- The canonical form above a bound: addresses strictly rising from `low`, inside the 2^20 bytes of R60, and
no entry equal to what an unlisted address reads as. -/
def Memory.wfFrom : Nat → Memory → Bool
  | _, [] => true
  | low, (k, v) :: m =>
    decide (low ≤ k) && decide (k < 2 ^ 20) && (v != Memory.unlisted) && Memory.wfFrom (k + 1) m

/-- The canonical form of memory. -/
def Memory.wf (m : Memory) : Bool := Memory.wfFrom 0 m

/-! Lanes. -/

/-- The two data lanes; `none` where a lane carries nothing defined (R12, R85). -/
structure Lanes where
  hi : Option Byte
  lo : Option Byte
deriving DecidableEq, Repr

/-- A read by the lane rule of R141. -/
def readLanes (space : Addr → Byte) (a : Addr) (bheN : Level) : Lanes :=
  { hi := if hiSelected bheN then some (space (hiAddr a)) else none
    lo := if loSelected a then some (space (loAddr a)) else none }

/-- A write to memory by the lane rule of R141; a bank that is not selected keeps its byte (R85). -/
def writeLanes (m : Memory) (a : Addr) (bheN : Level) (wdata : Word16) : Memory :=
  let m₁ := if hiSelected bheN then m.write (hiAddr a).toNat (hiByte wdata) else m
  if loSelected a then m₁.write (loAddr a).toNat (loByte wdata) else m₁

/-- The bytes stored by a write of the given address and BHE# level: the selected banks' addresses (R141). -/
def storedAddrs (a : Addr) (bheN : Level) : List Nat :=
  (if hiSelected bheN then [(hiAddr a).toNat] else []) ++ (if loSelected a then [(loAddr a).toNat] else [])

/-- The memory space as R141 reads it. -/
def State.memSpace (s : State) : Addr → Byte := fun a => s.mem.read a.toNat

/-- The I/O space as R141 reads it: each byte is a draw from IO_ENV (R76, R163). -/
def ioSpace (draw : Nat) : Addr → Byte := fun p => Config.portByte draw p

/-- Both lanes driven, as a write cycle does (R164, R168). -/
def drivenLanes (wdata : Word16) : Lanes := { hi := some (hiByte wdata), lo := some (loByte wdata) }

/-- `rdata <- (D_hi or 00h) ++ (D_lo or 00h)` (R163, R166, R167); the 00h is a placeholder (R85). -/
def Lanes.rdata (l : Lanes) : Word16 := joinBytes (l.hi.getD 0) (l.lo.getD 0)

/-! The bus cycle. -/

/-- What the rule of a kind adds to the frame of R161. -/
structure CyclePart where
  address : Option AddressPhase
  status : Option StatusPhase
  lanes : Lanes
  rdata : Word16
  mem : Memory
  queue : List Byte

/-- `AddressStatus(req)` (R150) for a kind with an address: the address phase, then the status phase. -/
def addressPhase (r : BusReq) : AddressPhase := { a := r.addr, bheN := r.bheN }

/-- INTA (R162): no address in the source, one byte from IO_ENV on the low lane. -/
def intaPart (r : BusReq) (s : State) : Except Refusal CyclePart :=
  if !tagAccepted .inta r.seg then .error .segKindMismatch
  else
    let lanes : Lanes := { hi := none, lo := some (Config.intaByte s.draws) }
    .ok { address := some ⟨Config.cycleAddress s.draws, Config.cycleBheN s.draws⟩
          status := some (statusPhase r.ifFlag Seg.csNone.code)
          lanes := lanes, rdata := lanes.rdata, mem := s.mem, queue := s.queue }

/-- IORD (R163). -/
def iordPart (r : BusReq) (s : State) : Except Refusal CyclePart :=
  if !tagAccepted .iord r.seg then .error .segKindMismatch
  else if !portInRange s.cfg r.addr then .error .portOutOfRange
  else if formOf r.bheN r.addr = .noForm then .error .noSelection
  else
    let lanes := readLanes (ioSpace s.draws) r.addr r.bheN
    .ok { address := some (addressPhase r), status := some (statusPhase r.ifFlag r.seg.code)
          lanes := lanes, rdata := lanes.rdata, mem := s.mem, queue := s.queue }

/-- IOWR (R164): the write is in the history; IO is not model state (R38). -/
def iowrPart (r : BusReq) (s : State) : Except Refusal CyclePart :=
  if !tagAccepted .iowr r.seg then .error .segKindMismatch
  else if !portInRange s.cfg r.addr then .error .portOutOfRange
  else if formOf r.bheN r.addr = .noForm then .error .noSelection
  else
    .ok { address := some (addressPhase r), status := some (statusPhase r.ifFlag r.seg.code)
          lanes := drivenLanes r.wdata, rdata := 0, mem := s.mem, queue := s.queue }

/-- HALT (R165): address, BHE# and S4 S3 are draws; nothing moves. -/
def haltPart (r : BusReq) (s : State) : Except Refusal CyclePart :=
  .ok { address := some ⟨Config.cycleAddress s.draws, Config.cycleBheN s.draws⟩
        status := some (statusPhase r.ifFlag ⟨Config.haltS4 s.draws, Config.haltS3 s.draws⟩)
        lanes := { hi := none, lo := none }, rdata := 0, mem := s.mem, queue := s.queue }

/-- The bytes a FETCH appends, the lower address first (R166). -/
def Lanes.fetched (l : Lanes) : List Byte := l.lo.toList ++ l.hi.toList

/-- FETCH (R166): a memory read; in maximum mode the bytes enter the queue (C12). -/
def fetchPart (r : BusReq) (s : State) : Except Refusal CyclePart :=
  if !tagAccepted .fetch r.seg then .error .segKindMismatch
  else if formOf r.bheN r.addr = .noForm then .error .noSelection
  else
    let lanes := readLanes s.memSpace r.addr r.bheN
    let part : CyclePart :=
      { address := some (addressPhase r), status := some (statusPhase r.ifFlag r.seg.code)
        lanes := lanes, rdata := lanes.rdata, mem := s.mem, queue := s.queue }
    match s.cfg.mode with
    | .min => .ok part
    | .max =>
      if s.cfg.queueDepth < s.queue.length + lanes.fetched.length then .error .queueOverflow
      else .ok { part with queue := s.queue ++ lanes.fetched }

/-- MEMRD (R167). -/
def memrdPart (r : BusReq) (s : State) : Except Refusal CyclePart :=
  if !tagAccepted .memrd r.seg then .error .segKindMismatch
  else if formOf r.bheN r.addr = .noForm then .error .noSelection
  else
    let lanes := readLanes s.memSpace r.addr r.bheN
    .ok { address := some (addressPhase r), status := some (statusPhase r.ifFlag r.seg.code)
          lanes := lanes, rdata := lanes.rdata, mem := s.mem, queue := s.queue }

/-- MEMWR (R168): both lanes are driven, the selected banks take their bytes. -/
def memwrPart (r : BusReq) (s : State) : Except Refusal CyclePart :=
  if !tagAccepted .memwr r.seg then .error .segKindMismatch
  else if formOf r.bheN r.addr = .noForm then .error .noSelection
  else
    .ok { address := some (addressPhase r), status := some (statusPhase r.ifFlag r.seg.code)
          lanes := drivenLanes r.wdata, rdata := 0
          mem := writeLanes s.mem r.addr r.bheN r.wdata, queue := s.queue }

/-- PASSIVE (R169): the absence of a bus cycle; no pin but the type pins has a value. The spec's files differ on
A19..A0 and BHE# here: R169, D19, V28 and V32 give no value, R130, R144, R149 and U3 call them a draw. The record
holds none (DESIGN CHOICE, log 34). -/
def passivePart (s : State) : Except Refusal CyclePart :=
  .ok { address := none, status := none, lanes := { hi := none, lo := none }, rdata := 0
        mem := s.mem, queue := s.queue }

/-- The rule of the request's kind (R162 to R169). -/
def cyclePart (r : BusReq) (s : State) : Except Refusal CyclePart :=
  match r.kind with
  | .inta => intaPart r s
  | .iord => iordPart r s
  | .iowr => iowrPart r s
  | .halt => haltPart r s
  | .fetch => fetchPart r s
  | .memrd => memrdPart r s
  | .memwr => memwrPart r s
  | .passive => passivePart s

/-- The pin record of a cycle (R12, R161). -/
def CyclePart.pinRecord (p : CyclePart) (r : BusReq) (s : State) : PinRecord :=
  { address := p.address, status := p.status, typePins := typePins s.cfg.mode s.lockHeld s.draws r
    dHi := p.lanes.hi, dLo := p.lanes.lo }

/-- The state after a cycle (R161, and R200 for `lock_held` and the prefix state). Each cycle uses one draw (R13). -/
def State.closeCycle (s : State) (r : BusReq) (p : CyclePart) : State :=
  { s with
    mem := p.mem, queue := p.queue, rdata := p.rdata
    lockHeld := lockHeldAfter s.lockHeld r
    lockPrefix := lockPrefixAfter s.lockPrefix r
    history := s.history ++ [.cycle (p.pinRecord r s)]
    draws := s.draws + 1 }

/-- `BusCycle` (R161) for a request. -/
def busCycle (r : BusReq) (s : State) : Host.Outcome State Fault Refusal :=
  if r.lock && s.cfg.mode == .min then .refused .lockInMinMode
  else
    match cyclePart r s with
    | .error e => .refused e
    | .ok p => .next (s.closeCycle r p)

/-! The events that are not bus cycles. -/

/-- `st'.queue` and the byte taken, by the rule of the operation (R211 to R214). -/
def queueEffect (op : QOp) (q : List Byte) (taken : Option Byte) : Except Refusal (List Byte × Option Byte) :=
  match op, q with
  | .qIdle, q => .ok (q, taken)
  | .qEmpty, _ => .ok ([], taken)
  | .qFirst, b :: rest => .ok (rest, some b)
  | .qSubseq, b :: rest => .ok (rest, some b)
  | .qFirst, [] => .error .queueUnderflow
  | .qSubseq, [] => .error .queueUnderflow

/-- `QueueOp(st, op)` (R210); it exists in maximum mode only (R205). -/
def queueOp (op : QOp) (s : State) : Host.Outcome State Fault Refusal :=
  match s.cfg.mode with
  | .min => .refused .eventNotInMinMode
  | .max =>
    match queueEffect op s.queue s.taken with
    | .error e => .refused e
    | .ok (q, t) => .next { s with queue := q, taken := t, history := s.history ++ [.queueOp op] }

/-- The LOCK: prefix (R201): no bus cycle and no data effect; the current request, and those of the instruction
in progress that follow, have `lock = 1`. Refused in minimum mode (R201, R203). That it is a step, and that the
step adds no event to the history, which R41 has none for, is the model's (DESIGN CHOICE, log 12). -/
def lockPrefixOp (s : State) : Host.Outcome State Fault Refusal :=
  match s.cfg.mode with
  | .min => .refused .lockInMinMode
  | .max => .next { s with lockPrefix := true, req := s.req.withLock true }

/-- LOCK_END (R200, R205): the prefixed instruction has completed, so what follows on the pins is not its. -/
def lockEnd (s : State) : Host.Outcome State Fault Refusal :=
  match s.cfg.mode with
  | .min => .refused .eventNotInMinMode
  | .max =>
    .next { s with
      lockHeld := false, lockPrefix := false, req := s.req.withLock false, history := s.history ++ [.lockEnd] }

/-! The second bus master. -/

/-- OTHER is present and not locked off the bus (R202, R243, R244). -/
def State.otherEnabled (s : State) : Bool := s.cfg.mode == .max && s.cfg.otherMaster && !s.lockHeld

/-- `OtherCycle` (R244): a memory read or write by the lane rule, any form but NONE (D11). -/
def otherCycle (r : OtherReq) (s : State) : Host.Outcome State Fault Refusal :=
  if formOf r.bheN r.addr = .noForm then .refused .noSelection
  else
    let lanes := if r.isWrite then drivenLanes r.wdata else readLanes s.memSpace r.addr r.bheN
    .next { s with
      mem := if r.isWrite then writeLanes s.mem r.addr r.bheN r.wdata else s.mem
      history := s.history ++ [.other r.addr r.bheN r.isWrite lanes.hi lanes.lo] }

/-- OTHER's cycle and the state it starts from, when it is OTHER's turn and it is enabled and has a cycle. -/
def otherTurn (s : State) : Option (OtherReq × State) :=
  match s.turns, s.otherPending with
  | .other :: turns, r :: rest =>
    if s.otherEnabled then some (r, { s with turns := turns, otherPending := rest }) else none
  | _, _ => none

/-! What the bus interface takes up next. -/

/-- What a read primitive does with a cycle's read data (R72). -/
inductive Finish where
  /-- Nothing: not a read primitive. -/
  | nothing
  /-- A byte at an odd address: it is `r.D_hi`. -/
  | highByte
  /-- A byte at an even address: it is `r.D_lo`. -/
  | lowByte
  /-- An aligned word. -/
  | whole
  /-- The first cycle of a split word: keep `r1.D_hi`. -/
  | firstHalf
  /-- The second cycle of a split word: `r2.D_lo ++ r1.D_hi`. -/
  | secondHalf
deriving DecidableEq, Repr

/-- The state with the primitive's value (R72). -/
def finish (f : Finish) (s : State) : State :=
  match f with
  | .nothing => s
  | .highByte => { s with result := joinBytes 0 (hiByte s.rdata) }
  | .lowByte => { s with result := joinBytes 0 (loByte s.rdata) }
  | .whole => { s with result := s.rdata }
  | .firstHalf => { s with half := hiByte s.rdata }
  | .secondHalf => { s with result := joinBytes (loByte s.rdata) s.half }

end Sys2Proof.Machine

namespace Sys2Proof

open Machine

/-- What becomes of the first cycle's read data of a primitive (R72; a write returns nothing). -/
def Access.finishFirst (x : Access) : Finish :=
  match x.kind with
  | .memWrite | .ioWrite => .nothing
  | .memRead | .ioRead | .fetch =>
    if x.oddWord then .firstHalf
    else if x.wide then .whole
    else if a0 x.addr then .highByte
    else .lowByte

/-- What becomes of the second cycle's read data of a split primitive (R72). -/
def Access.finishSecond (x : Access) : Finish :=
  match x.kind with
  | .memWrite | .ioWrite => .nothing
  | .memRead | .ioRead | .fetch => .secondHalf

end Sys2Proof

namespace Sys2Proof.Machine

/-- The requests of one interrupt acknowledge: `INTA_CYCLES` consecutive INTA requests (R234). -/
def acknowledgeRequests (c : Cfg) (r : BusReq) : List BusReq := List.replicate c.intaCycles (r.withKind .inta)

/-- What the bus interface takes up. -/
inductive Fetched where
  /-- A code, the state it runs in (its operands on the other pins), and what is done with its read data. -/
  | code (w : CodeWord) (after : Finish) (s : State)
  /-- LOCK_END. -/
  | lockEnd (s : State)
  /-- A primitive that is refused before its first cycle (R72). -/
  | refused (r : Refusal)

/-- The code of a request on S2# S1# S0#, with the request on the other pins. -/
def presentRequest (r : BusReq) (after : Finish) (rest : List EnvInput) (s : State) : Fetched :=
  .code r.kind.word after { s with req := r, pending := rest }

/-- Take up an access primitive (R72, R73). The second cycle of a split word is the next input taken up, so that
between the two only OTHER's cycles fall; R72 does not say whether a PASSIVE step or a queue operation may (DESIGN
CHOICE, log 33). -/
def presentAccess (x : Access) (rest : List EnvInput) (s : State) : Fetched :=
  match x.first s.cfg (Config.idleLane s.draws) with
  | .error e => .refused e
  | .ok r => presentRequest r x.finishFirst (if x.oddWord then .accessRest x :: rest else rest) s

/-- Take up EU_ENV's next input (R20). With none handed over the bus is passive (R169; log 10). -/
def fetchInput (s : State) : Fetched :=
  match s.pending with
  | [] => presentRequest (idleRequest.withLock s.lockPrefix) .nothing [] s
  | .cycle r :: rest => presentRequest r .nothing rest s
  | .instrCycle r :: rest => presentRequest (r.withLock s.lockPrefix) .nothing rest s
  | .code w :: rest => .code w .nothing { s with pending := rest }
  | .lockEnd :: rest => .lockEnd { s with pending := rest }
  | .access x :: rest => presentAccess x rest s
  | .instrAccess x :: rest => presentAccess (x.withLock s.lockPrefix) rest s
  | .accessRest x :: rest => presentRequest (x.second (Config.idleLane s.draws)) x.finishSecond rest s
  | .acknowledge r :: rest =>
    presentRequest (r.withKind .inta) .nothing
      (((acknowledgeRequests s.cfg r).drop 1).map .cycle ++ rest) s

/-- An outcome with its next state finished. -/
def finishOutcome (f : Finish) : Host.Outcome State Fault Refusal → Host.Outcome State Fault Refusal
  | .next s => .next (finish f s)
  | .fault r => .fault r
  | .refused r => .refused r

end Sys2Proof.Machine
end

