-- ==== Sys2Proof/Machine/BusCycles.lean ====
section
/-! DEFINITION. The meanings of the eight bus-cycle types (41_bus_cycle_types.md R162 to R169): the bus cycle
of the current request with this code on S2# S1# S0#. -/

namespace Sys2Proof.Machine

/-- INTA, 000 (R162). -/
def execInta (s : State) : Host.Outcome State Fault Refusal := busCycle (s.req.withKind .inta) s

/-- IORD, 001 (R163). -/
def execIord (s : State) : Host.Outcome State Fault Refusal := busCycle (s.req.withKind .iord) s

/-- IOWR, 010 (R164). -/
def execIowr (s : State) : Host.Outcome State Fault Refusal := busCycle (s.req.withKind .iowr) s

/-- HALT, 011 (R165). -/
def execHalt (s : State) : Host.Outcome State Fault Refusal := busCycle (s.req.withKind .halt) s

/-- FETCH, 100 (R166). -/
def execFetch (s : State) : Host.Outcome State Fault Refusal := busCycle (s.req.withKind .fetch) s

/-- MEMRD, 101 (R167). -/
def execMemrd (s : State) : Host.Outcome State Fault Refusal := busCycle (s.req.withKind .memrd) s

/-- MEMWR, 110 (R168). -/
def execMemwr (s : State) : Host.Outcome State Fault Refusal := busCycle (s.req.withKind .memwr) s

/-- PASSIVE, 111 (R169). -/
def execPassive (s : State) : Host.Outcome State Fault Refusal := busCycle (s.req.withKind .passive) s

end Sys2Proof.Machine
end

