-- ==== Sys2Proof/Machine/LockPrefix.lean ====
section
/-! DEFINITION. The meaning of the LOCK: prefix (42_lock_and_queue_status.md R201). -/

namespace Sys2Proof.Machine

/-- LOCK, PREFIX8 11110000 (R201). -/
def execLock (s : State) : Host.Outcome State Fault Refusal := lockPrefixOp s

end Sys2Proof.Machine
end

