-- ==== Sys2Proof/Machine/QueueStatus.lean ====
section
/-! DEFINITION. The meanings of the four queue status codes (42_lock_and_queue_status.md R211 to R214). -/

namespace Sys2Proof.Machine

/-- Q_IDLE, QS1 QS0 = 00 (R211). -/
def execQIdle (s : State) : Host.Outcome State Fault Refusal := queueOp .qIdle s

/-- Q_FIRST, QS1 QS0 = 01 (R212). -/
def execQFirst (s : State) : Host.Outcome State Fault Refusal := queueOp .qFirst s

/-- Q_EMPTY, QS1 QS0 = 10 (R213). -/
def execQEmpty (s : State) : Host.Outcome State Fault Refusal := queueOp .qEmpty s

/-- Q_SUBSEQ, QS1 QS0 = 11 (R214). -/
def execQSubseq (s : State) : Host.Outcome State Fault Refusal := queueOp .qSubseq s

end Sys2Proof.Machine
end

