-- ==== Sys2Proof/Machine/SegmentTags.lean ====
section
/-! DEFINITION. The meanings of the four segment tags (40_address_status_bhe.md R135 to R139): the bus cycle of
the current request with this tag on S4 S3 in its status phase (log 2). -/

namespace Sys2Proof.Machine

/-- ES, S4 S3 = 00 (R135). -/
def execEs (s : State) : Host.Outcome State Fault Refusal := busCycle (s.req.withSeg .es) s

/-- SS, S4 S3 = 01 (R136). -/
def execSs (s : State) : Host.Outcome State Fault Refusal := busCycle (s.req.withSeg .ss) s

/-- CS_NONE, S4 S3 = 10 (R137). -/
def execCsNone (s : State) : Host.Outcome State Fault Refusal := busCycle (s.req.withSeg .csNone) s

/-- DS, S4 S3 = 11 (R139). -/
def execDs (s : State) : Host.Outcome State Fault Refusal := busCycle (s.req.withSeg .ds) s

end Sys2Proof.Machine
end

