-- ==== Sys2Proof/Machine/TransferForms.lean ====
section
/-! DEFINITION. The meanings of the four transfer forms (40_address_status_bhe.md R146 to R149): the bus cycle
of the current request with these levels on BHE# and A0 in its address phase (log 2). -/

namespace Sys2Proof.Machine

/-- WORD, BHE# A0 = 00 (R146). -/
def execWord (s : State) : Host.Outcome State Fault Refusal := busCycle (s.req.withForm .word) s

/-- HIGH_BYTE, BHE# A0 = 01 (R147). -/
def execHighByte (s : State) : Host.Outcome State Fault Refusal := busCycle (s.req.withForm .highByte) s

/-- LOW_BYTE, BHE# A0 = 10 (R148). -/
def execLowByte (s : State) : Host.Outcome State Fault Refusal := busCycle (s.req.withForm .lowByte) s

/-- NONE, BHE# A0 = 11 (R149): refused on a kind that moves data, without effect on the others. -/
def execNoForm (s : State) : Host.Outcome State Fault Refusal := busCycle (s.req.withForm .noForm) s

end Sys2Proof.Machine
end

