-- ==== Sys2Proof/Machine/Dispatch.lean ====
section
/-! DEFINITION. The dispatch: one arm per constructor of `Instr`. -/

namespace Sys2Proof.Machine

def exec (i : Instr) (s : State) : Host.Outcome State Fault Refusal :=
  match i with
  | .inta => Sys2Proof.Machine.execInta s
  | .iord => Sys2Proof.Machine.execIord s
  | .iowr => Sys2Proof.Machine.execIowr s
  | .halt => Sys2Proof.Machine.execHalt s
  | .fetch => Sys2Proof.Machine.execFetch s
  | .memrd => Sys2Proof.Machine.execMemrd s
  | .memwr => Sys2Proof.Machine.execMemwr s
  | .passive => Sys2Proof.Machine.execPassive s
  | .es => Sys2Proof.Machine.execEs s
  | .ss => Sys2Proof.Machine.execSs s
  | .csNone => Sys2Proof.Machine.execCsNone s
  | .ds => Sys2Proof.Machine.execDs s
  | .word => Sys2Proof.Machine.execWord s
  | .highByte => Sys2Proof.Machine.execHighByte s
  | .lowByte => Sys2Proof.Machine.execLowByte s
  | .noForm => Sys2Proof.Machine.execNoForm s
  | .qIdle => Sys2Proof.Machine.execQIdle s
  | .qFirst => Sys2Proof.Machine.execQFirst s
  | .qEmpty => Sys2Proof.Machine.execQEmpty s
  | .qSubseq => Sys2Proof.Machine.execQSubseq s
  | .lock => Sys2Proof.Machine.execLock s

end Sys2Proof.Machine
end

