-- ==== Sys2Proof/Machine/Step.lean ====
section
/-! DEFINITION. One step of the machine (00_scope.md R13, R14): a cycle of the second bus master when it is its
turn and it may have the bus, else what EU_ENV hands the bus interface next. -/

namespace Sys2Proof.Machine

/-- A step of the bus interface: take up the next input, decode its code, run it. A code of S2# S1# S0# is decoded
in minimum mode too, where those lines do not exist (R101, R175), and runs that kind's cycle with the control
signals of R176 (DESIGN CHOICE, log 32). -/
def biuStep (s : State) : Host.Outcome State Fault Refusal :=
  match fetchInput s with
  | .refused r => .refused r
  | .lockEnd s' => lockEnd s'
  | .code w after s' =>
    match decode w with
    | .error e => .refused (.undecodable e)
    | .ok i => finishOutcome after (exec i s')

/-- One step. A turn that OTHER cannot use passes to the 8086 (log 15). -/
def step (s : State) : Host.Outcome State Fault Refusal :=
  match otherTurn s with
  | some (r, s') => otherCycle r s'
  | none => biuStep { s with turns := s.turns.tail }

/-- The state with a code of the opcode table as the next thing the bus interface takes up, and the turn the
8086's. -/
def State.withFetchWord (s : State) (nbits w : Nat) : State :=
  { s with pending := .code (tableCodeWord nbits w) :: s.pending, turns := .biu :: s.turns }

end Sys2Proof.Machine
end

