-- ==== Sys2Proof/Machine/Controller.lean ====
section
/-! DEFINITION. The 8288 bus controller (41_bus_cycle_types.md R180 to R184): a function from the levels of
S2# S1# S0# to its command and control outputs, with no state and no step of its own (00_scope.md R14). The
outputs beyond the source's seven names are R184's. -/

namespace Sys2Proof

/-- The levels of S2# S1# S0# as a number (R101). -/
def KindCode.value (c : KindCode) : BitVec 3 := BitVec.ofNat 3 (levelsValue [c.s2N, c.s1N, c.s0N])

end Sys2Proof

namespace Sys2Proof.Machine

/-- The 8288's outputs (R180, R184). A command output is active at level 0. -/
structure ControllerOut where
  /-- `MRDC*`, memory read. -/
  mrdcN : Level
  /-- `MWTC*`, memory write. -/
  mwtcN : Level
  /-- `AMWC#`, advanced memory write (R184). -/
  amwcN : Level
  /-- `IORC*`, I/O read. -/
  iorcN : Level
  /-- `IOWTC*` in the source, `IOWC#` in R184: I/O write. -/
  iowcN : Level
  /-- `AIOWC#`, advanced I/O write (R184). -/
  aiowcN : Level
  /-- `INTA#`, the interrupt-acknowledge output among the source's "etc." (R181, R184). -/
  intaN : Level
  /-- `ALE`: whether it pulses at the start of the cycle (R182). -/
  ale : Level
  /-- `DEN`, active high (R182). -/
  den : Level
  /-- `DT/R*` (R182). -/
  dtR : Level
  /-- `MCE/PDEN#` (R184). -/
  mcePdenN : Level
deriving DecidableEq, Repr

/-- The command outputs, active low, by what the code is decoded to (R181, R184). The arguments are the
controls R182 states: ALE, DEN and DT/R*. -/
def controllerOut (c : KindCode) (mrd mwr iord iowr inta : Bool) (ale den dtR : Level) : ControllerOut :=
  { mrdcN := !mrd, mwtcN := !mwr, amwcN := !mwr, iorcN := !iord, iowcN := !iowr, aiowcN := !iowr, intaN := !inta
    ale := ale, den := den, dtR := dtR, mcePdenN := Config.controllerMce c.value }

/-- `BC8288(code)` (R181). -/
def bc8288 (c : KindCode) : ControllerOut :=
  match c.kind with
  | .inta => controllerOut c false false false false true true true false
  | .iord => controllerOut c false false true false false true true false
  | .iowr => controllerOut c false false false true false true true true
  | .halt => controllerOut c false false false false false true false (Config.controllerDtR c.value)
  | .fetch => controllerOut c true false false false false true true false
  | .memrd => controllerOut c true false false false false true true false
  | .memwr => controllerOut c false true false false false true true true
  | .passive => controllerOut c false false false false false false false (Config.controllerDtR c.value)

/-- The 8288's inputs in a pin record: the three status lines (R180). -/
def MaxPins.kindCode (p : MaxPins) : KindCode := ⟨p.s2N, p.s1N, p.s0N⟩

/-- The 8288's outputs during a bus cycle; in minimum mode there is no 8288 (R175, R180). -/
def PinRecord.controller (p : PinRecord) : Option ControllerOut :=
  match p.typePins with
  | .max t => some (bc8288 t.kindCode)
  | .min _ => none

end Sys2Proof.Machine
end

