-- ==== Sys2Proof/Machine/Observer.lean ====
section
/-! DEFINITION. What can be read back from the history alone (10_state.md R41, 60_exceptions.md R246, R249): the
type of a cycle from its type pins, the request an observer sees, the bytes IO_ENV takes, and the memory, the
queue and the lock rebuilt by replaying the events. No step reads any of it. -/

namespace Sys2Proof.Machine

/-- The strobes of a cycle, from the type pins: S2# S1# S0# (R160) or the control signals (R176). -/
structure Strobes where
  memRead : Bool
  memWrite : Bool
  ioRead : Bool
  ioWrite : Bool
  /-- The absence of a bus cycle: code 111, or no address-latch pulse. -/
  passive : Bool
  /-- An opcode fetch; minimum mode's control signals cannot tell it (R176). -/
  fetch : Bool
deriving DecidableEq, Repr

/-- The strobes the type pins show. -/
def TypePins.strobes : TypePins → Strobes
  | .max p =>
    { memRead := p.s2N && !p.s1N, memWrite := p.s2N && p.s1N && !p.s0N
      ioRead := !p.s2N && !p.s1N && p.s0N, ioWrite := !p.s2N && p.s1N && !p.s0N
      passive := p.s2N && p.s1N && p.s0N, fetch := p.s2N && !p.s1N && !p.s0N }
  | .min p =>
    { memRead := p.mIo && !p.rdN, memWrite := p.mIo && !p.wrN
      ioRead := !p.mIo && !p.rdN, ioWrite := !p.mIo && !p.wrN
      passive := !p.ale, fetch := false }

/-- The strobes of a cycle. -/
def PinRecord.strobes (p : PinRecord) : Strobes := p.typePins.strobes

/-- A read or a write of memory or of a port. -/
def Strobes.movesData (t : Strobes) : Bool := t.memRead || t.memWrite || t.ioRead || t.ioWrite

/-! The request an observer sees. -/

/-- A maximum-mode cycle as the pins show it: its type, address, form, segment, IF and LOCK# (R246, R249). -/
structure SeenCycle where
  kind : Kind
  addr : Addr
  form : Form
  seg : Seg
  ifFlag : Level
  locked : Bool
deriving DecidableEq, Repr

/-- Read a maximum-mode pin record back. -/
def PinRecord.seen (p : PinRecord) : Option SeenCycle :=
  match p.typePins, p.address, p.status with
  | .max t, some ad, some st =>
    some { kind := t.kindCode.kind, addr := ad.a, form := FormCode.form ⟨ad.bheN, ad.a.getLsbD 0⟩
           seg := TagCode.seg ⟨st.s4, st.s3⟩, ifFlag := st.s5, locked := !t.lockN }
  | _, _, _ => none

/-! What IO_ENV takes. -/

/-- The ports and bytes IO_ENV takes from a cycle: each selected lane of an I/O write (R164). -/
def PinRecord.portWrites (p : PinRecord) : List (Addr × Byte) :=
  if p.strobes.ioWrite then
    match p.address with
    | some ad =>
      (if loSelected ad.a then p.dLo.toList.map (fun b => (loAddr ad.a, b)) else [])
        ++ (if hiSelected ad.bheN then p.dHi.toList.map (fun b => (hiAddr ad.a, b)) else [])
    | none => []
  else []

/-! Replaying the events. -/

/-- A write seen on the buses, put into memory (R141, R244). -/
def replayWrite (m : Memory) (a : Addr) (bheN : Level) : Option Byte → Option Byte → Memory
  | some hi, some lo => writeLanes m a bheN (joinBytes hi lo)
  | _, _ => m

/-- Memory after an event, from the event alone (R80). -/
def replayMem (m : Memory) : Event → Memory
  | .cycle p =>
    match p.address with
    | some ad => if p.strobes.memWrite then replayWrite m ad.a ad.bheN p.dHi p.dLo else m
    | none => m
  | .other a bheN true hi lo => replayWrite m a bheN hi lo
  | .other _ _ false _ _ => m
  | .queueOp _ => m
  | .lockEnd => m

/-- The lanes a read event shows are the bytes of the given memory (R80). -/
def lanesAgree (m : Memory) (a : Addr) (bheN : Level) (hi lo : Option Byte) : Bool :=
  readLanes (fun x => m.read x.toNat) a bheN == (⟨hi, lo⟩ : Lanes)

/-- A read event returned the bytes of the given memory; any other event agrees with it (R80). -/
def readAgrees (m : Memory) : Event → Bool
  | .cycle p =>
    match p.address with
    | some ad => !p.strobes.memRead || lanesAgree m ad.a ad.bheN p.dHi p.dLo
    | none => true
  | .other a bheN false hi lo => lanesAgree m a bheN hi lo
  | .other _ _ true _ _ => true
  | .queueOp _ => true
  | .lockEnd => true

/-- Every read of a run of events returns, for each selected byte, what the latest write before it in the
run left there, or the starting memory's byte (R80 item 2). -/
def readsSeeLatestWrites : Memory → List Event → Bool
  | _, [] => true
  | m, e :: es => readAgrees m e && readsSeeLatestWrites (replayMem m e) es

/-- The queue after an event, as an observer of FETCH cycles and QS1 QS0 keeps it (R215). -/
def replayQueue (q : List Byte) : Event → List Byte
  | .cycle p => if p.strobes.fetch then q ++ (p.dLo.toList ++ p.dHi.toList) else q
  | .queueOp .qIdle => q
  | .queueOp .qFirst => q.tail
  | .queueOp .qSubseq => q.tail
  | .queueOp .qEmpty => []
  | .lockEnd => q
  | .other _ _ _ _ _ => q

/-- Whether LOCK# is held low after an event, from the pins (R200). Minimum mode has no LOCK#. -/
def replayLock (held : Bool) : Event → Bool
  | .cycle p =>
    if p.strobes.passive then held
    else
      match p.typePins with
      | .max t => !t.lockN
      | .min _ => false
  | .lockEnd => false
  | .queueOp _ => held
  | .other _ _ _ _ _ => held

/-- No cycle of OTHER in a run of events stands where LOCK# is held low (R82, R202). -/
def lockRespected : Bool → List Event → Bool
  | _, [] => true
  | held, .other _ _ _ _ _ :: es => !held && lockRespected held es
  | held, e :: es => lockRespected (replayLock held e) es

end Sys2Proof.Machine
end

