-- ==== Sys2Proof/Safety.lean ====
section
/-! DEFINITION. What a safe state is: memory in its canonical form, the queue within `QUEUE_DEPTH` (10_state.md
R41), a history of records an 8086 in this mode can produce (30_encoding.md R105, R109; R12), and no cycle of
the second master inside a locked span (20_memory.md R82). -/

namespace Sys2Proof.Machine

/-- The type pins are the mode's own (R12). -/
def TypePins.inMode : TypePins → Mode → Bool
  | .max _, .max => true
  | .min _, .min => true
  | .max _, .min => false
  | .min _, .max => false

/-- The status phase is one an 8086 drives: `ST_HI` in 10h..17h (R105, R109). -/
def StatusPhase.legal (p : StatusPhase) : Bool := p.s7 && !p.s6

/-- A cycle that moves data selects a lane (R149). -/
def PinRecord.selects (p : PinRecord) : Bool :=
  match p.address with
  | some ad => !p.strobes.movesData || formOf ad.bheN ad.a != .noForm
  | none => true

/-- A record an 8086 in the given mode can produce. A PASSIVE step has no address and no status phase, every
other cycle has both (R169, R12). -/
def PinRecord.legal (m : Mode) (p : PinRecord) : Bool :=
  p.typePins.inMode m && p.status.all StatusPhase.legal && (p.strobes.passive == p.address.isNone)
    && (p.address.isSome == p.status.isSome) && p.selects

/-- An event that can occur in the given mode: queue operations, LOCK_END and OTHER exist in maximum mode only
(R205, R243), and a cycle of OTHER selects a lane (D11). -/
def Event.legal (m : Mode) : Event → Bool
  | .cycle p => p.legal m
  | .queueOp _ => m == .max
  | .lockEnd => m == .max
  | .other a bheN _ _ _ => m == .max && formOf bheN a != .noForm

/-- The queue is within its depth (R41). -/
def State.queueWithin (s : State) : Bool := decide (s.queue.length ≤ s.cfg.queueDepth)

/-- Every event of the history can occur in the state's mode. -/
def State.historyLegal (s : State) : Bool := s.history.all (Event.legal s.cfg.mode)

/-- The lock is the one the history shows, and no cycle of OTHER stands inside a locked span. -/
def State.locksRespected (s : State) : Bool :=
  (s.history.foldl replayLock false == s.lockHeld) && lockRespected false s.history

/-- The invariant of a run. -/
def State.safe (s : State) : Bool :=
  s.mem.wf && s.queueWithin && s.historyLegal && s.locksRespected

end Sys2Proof.Machine
end

