-- ==== Sys2Proof/Certificates/Slice0/Obligations.lean ====
section
/-! DEFINITION. The statements for the provers, from the numbered rules of spec/. The helpers of the namespace
`Sys2Proof.Stated` write out what the rules say in levels and bytes; they call no operation of the step. -/

namespace Sys2Proof.Stated

open Machine

/-! Helpers: the conditions and the next states the rules write out. -/

/-- The request carries no lock, or LOCK# exists (R203). -/
abbrev LockAllowed (s : State) : Prop := s.cfg.mode = .max ∨ s.req.lock = false

/-- The current request selects a lane: not BHE# = 1 with A0 = 1 (R149). -/
abbrev Selects (s : State) : Prop := s.req.bheN = false ∨ a0 s.req.addr = false

/-- The type pins: the three status levels and LOCK# (R200) in maximum mode, the control levels in minimum
mode. -/
def shown (s : State) (s2N s1N s0N : Level) (m : MinPins) : TypePins :=
  match s.cfg.mode with
  | .max => .max ⟨s2N, s1N, s0N, !s.req.lock⟩
  | .min => .min m

/-- The status phase R150 gives: S7 = 1, S6 = 0, S5 = IF. -/
def status (s : State) (s4 s3 : Level) : Option StatusPhase := some ⟨true, false, s.req.ifFlag, s4, s3⟩

/-- The state after a cycle that is not PASSIVE: the record is in the history, LOCK# is held as the request
says, a request without `lock` ends the prefix (R200; log 12), one draw is used, `rdata` is returned; everything
else is as given. -/
def done (s : State) (p : PinRecord) (rdata : Word16) (mem : Memory) (queue : List Byte) : State :=
  { s with mem := mem, queue := queue, rdata := rdata, draws := s.draws + 1
           lockHeld := s.req.lock, lockPrefix := s.lockPrefix && s.req.lock
           history := s.history ++ [.cycle p] }

/-- The odd-bank byte of a memory read, when BHE# = 0 (R141). -/
def readHi (s : State) (a : Addr) (bheN : Level) : Option Byte :=
  if bheN = false then some (s.mem.read (hiAddr a).toNat) else none

/-- The even-bank byte of a memory read, when A0 = 0 (R141). -/
def readLo (s : State) (a : Addr) : Option Byte :=
  if a0 a = false then some (s.mem.read (loAddr a).toNat) else none

/-- `rdata` of a memory read (R167). -/
def readValue (s : State) (a : Addr) (bheN : Level) : Word16 :=
  joinBytes ((readHi s a bheN).getD 0) ((readLo s a).getD 0)

/-- The state after a memory read at `a` with levels BHE#, S4, S3 (R167): 101, or M/IO# DT/R# RD# WR# DEN#
INTA# ALE = 1 0 0 1 0 1 1. -/
def afterMemRead (s : State) (a : Addr) (bheN s4 s3 : Level) : State :=
  done s { address := some ⟨a, bheN⟩, status := status s s4 s3
           typePins := shown s true false true ⟨true, false, false, true, false, true, true⟩
           dHi := readHi s a bheN, dLo := readLo s a } (readValue s a bheN) s.mem s.queue

/-- The pin record of a memory write at `a` (R168): 110, or 1 1 1 0 0 1 1; both lanes driven. -/
def memWriteRecord (s : State) (a : Addr) (bheN s4 s3 : Level) : PinRecord :=
  { address := some ⟨a, bheN⟩, status := status s s4 s3
    typePins := shown s true true false ⟨true, true, true, false, false, true, true⟩
    dHi := some (hiByte s.req.wdata), dLo := some (loByte s.req.wdata) }

/-- `t` is the state after a memory write at `a` with levels BHE#, S4, S3 (R168): the selected banks' bytes are
written, every other byte of memory reads as before, and everything but memory is as R161 says. -/
def AfterMemWrite (s t : State) (a : Addr) (bheN s4 s3 : Level) : Prop :=
  t = done s (memWriteRecord s a bheN s4 s3) 0 t.mem s.queue
    ∧ (bheN = false → t.mem.read (hiAddr a).toNat = hiByte s.req.wdata)
    ∧ (a0 a = false → t.mem.read (loAddr a).toNat = loByte s.req.wdata)
    ∧ ∀ x, x ∉ storedAddrs a bheN → t.mem.read x = s.mem.read x

/-! The access primitives (R72 to R74). -/

/-- The primitive reads. -/
abbrev Reads (x : Access) : Prop := x.kind = .memRead ∨ x.kind = .ioRead ∨ x.kind = .fetch

/-- The primitive writes. -/
abbrev Writes (x : Access) : Prop := x.kind = .memWrite ∨ x.kind = .ioWrite

/-- The cycles of a primitive that moves `n` bytes are not refused for what its kind asks: ports in range (R163,
R164); a fetch carries CS_NONE (R138) and finds room in the queue (R166). -/
abbrev Accepted (s : State) (x : Access) (n : Nat) : Prop :=
  (x.kind = .ioRead ∨ x.kind = .ioWrite → x.addr.toNat + n ≤ 2 ^ s.cfg.ioAddrBits)
    ∧ (x.kind = .fetch → x.seg = .csNone ∧ (s.cfg.mode = .max → s.queue.length + n ≤ s.cfg.queueDepth))

/-- The tag of a primitive's cycles: the caller's, and CS_NONE on a port (R72, R74). -/
def accessSeg (x : Access) : Seg :=
  match x.kind with
  | .ioRead | .ioWrite => .csNone
  | .memRead | .memWrite | .fetch => x.seg

/-- The type pins of a primitive's cycle (R160; R176). -/
def accessPins (s : State) : AccessKind → TypePins
  | .memRead => shown s true false true ⟨true, false, false, true, false, true, true⟩
  | .memWrite => shown s true true false ⟨true, true, true, false, false, true, true⟩
  | .ioRead => shown s false false true ⟨false, false, false, true, false, true, true⟩
  | .ioWrite => shown s false true false ⟨false, true, true, false, false, true, true⟩
  | .fetch => shown s true false false ⟨true, false, false, true, false, true, true⟩

/-- The pin record of a primitive's cycle at `a`; IF and `lock` are the caller's (R72). -/
def accessRecord (s : State) (x : Access) (a : Addr) (bheN : Level) (hi lo : Option Byte) : PinRecord :=
  let u : State := { s with req := { s.req with ifFlag := x.ifFlag, lock := x.lock } }
  { address := some ⟨a, bheN⟩, status := status u (accessSeg x).code.s4 (accessSeg x).code.s3
    typePins := accessPins u x.kind, dHi := hi, dLo := lo }

/-- The byte a read primitive finds at `a`: memory's, or the port's draw (R72, R74, R76). -/
def accessByte (s : State) (x : Access) (draw : Nat) (a : Addr) : Byte :=
  match x.kind with
  | .ioRead | .ioWrite => Config.portByte draw a
  | .memRead | .memWrite | .fetch => s.mem.read a.toNat

/-- The queue after a primitive: a fetch in maximum mode appends its bytes (R166). -/
def accessQueue (s : State) (x : Access) (bytes : List Byte) : List Byte :=
  if x.kind = .fetch ∧ s.cfg.mode = .max then s.queue ++ bytes else s.queue

/-- `t` is the state after a primitive with the given records: they are in the history, one draw is used for each,
the lock is the caller's; the request on the pins is the primitive's and `rdata` its last cycle's, memory is as a
statement says beside this, everything else is as given. -/
def AfterAccess (s t : State) (x : Access) (rest : List EnvInput) (records : List PinRecord) (queue : List Byte)
    (result : Word16) (half : Byte) : Prop :=
  t = { s with
    pending := rest, turns := s.turns.tail, req := t.req, rdata := t.rdata, mem := t.mem
    queue := queue, result := result, half := half, lockHeld := x.lock, lockPrefix := s.lockPrefix && x.lock
    draws := s.draws + records.length, history := s.history ++ records.map .cycle }

/-- A write primitive has put the given bytes: in memory, which elsewhere reads as before, or at IO_ENV's ports,
with memory as before (R73, R74, R38). -/
def Stored (s t : State) (x : Access) (records : List PinRecord) (bytes : List (Addr × Byte)) : Prop :=
  (x.kind = .memWrite → (∀ b ∈ bytes, t.mem.read b.1.toNat = b.2)
    ∧ ∀ y, (∀ b ∈ bytes, y ≠ b.1.toNat) → t.mem.read y = s.mem.read y)
  ∧ (x.kind = .ioWrite → t.mem = s.mem ∧ (records.map PinRecord.portWrites).flatten = bytes)

/-- The record of the last bus cycle, when the history's last entry is one. -/
def lastRecord (t : State) : Option PinRecord :=
  match t.history.getLast? with
  | some (.cycle p) => some p
  | _ => none

/-- The last bus cycle shows LOCK# = 0, the lock is held, and the prefix and the request's `lock` stay. -/
def LockedLow (t : State) : Prop :=
  t.lockPrefix = true ∧ t.req.lock = true ∧ t.lockHeld = true
    ∧ ∃ p q, lastRecord t = some p ∧ p.typePins = .max q ∧ q.lockN = false

/-- An outcome with another request on the pins afterwards. -/
def withRequest (r : BusReq) : Host.Outcome State Fault Refusal → Host.Outcome State Fault Refusal
  | .next t => .next { t with req := r }
  | .fault e => .fault e
  | .refused e => .refused e

/-- It is the 8086's turn. -/
abbrev BiuTurn (s : State) : Prop := s.turns = [] ∨ s.turns.head? = some .biu

/-- The events a later state's history has beyond an earlier one's. -/
def newEvents (s t : State) : List Event := t.history.drop s.history.length

/-- The instructions that are bus cycles: every row but the queue operations and LOCK. -/
def isCycleCode : Instr → Bool
  | .qIdle | .qFirst | .qEmpty | .qSubseq | .lock => false
  | .inta | .iord | .iowr | .halt | .fetch | .memrd | .memwr | .passive => true
  | .es | .ss | .csNone | .ds | .word | .highByte | .lowByte | .noForm => true

/-- The bus-cycle type an instruction performs: its own, or for a tag or form code the current request's. -/
def performedKind (i : Instr) (s : State) : Kind :=
  match i with
  | .inta => .inta
  | .iord => .iord
  | .iowr => .iowr
  | .halt => .halt
  | .fetch => .fetch
  | .memrd => .memrd
  | .memwr => .memwr
  | .passive => .passive
  | .es | .ss | .csNone | .ds | .word | .highByte | .lowByte | .noForm => s.req.kind
  | .qIdle | .qFirst | .qEmpty | .qSubseq | .lock => .passive

end Sys2Proof.Stated

open Sys2Proof Sys2Proof.Machine Sys2Proof.Stated

/-! Encoding. -/

/-- R107, R113: a presented code decodes to an instruction exactly when it is that instruction's code word. No
level of any code is dropped, and no two instructions share a code of one format. -/
def Obligations.CodeWordDecodesExactlyToItsInstruction : Prop :=
  ∀ (w : CodeWord) (i : Instr), decode w = .ok i ↔ w = encode i

/-- R107: all 21 rows, and "every value of every format has a row". The prefix byte F0h is general knowledge
(log 30). -/
def Obligations.AllTwentyOneCodesDecode : Prop :=
  (decode ⟨.s2s1s0, [false, false, false]⟩ = .ok .inta ∧ decode ⟨.s2s1s0, [false, false, true]⟩ = .ok .iord
    ∧ decode ⟨.s2s1s0, [false, true, false]⟩ = .ok .iowr ∧ decode ⟨.s2s1s0, [false, true, true]⟩ = .ok .halt
    ∧ decode ⟨.s2s1s0, [true, false, false]⟩ = .ok .fetch ∧ decode ⟨.s2s1s0, [true, false, true]⟩ = .ok .memrd
    ∧ decode ⟨.s2s1s0, [true, true, false]⟩ = .ok .memwr ∧ decode ⟨.s2s1s0, [true, true, true]⟩ = .ok .passive)
  ∧ (decode ⟨.s4s3, [false, false]⟩ = .ok .es ∧ decode ⟨.s4s3, [false, true]⟩ = .ok .ss
    ∧ decode ⟨.s4s3, [true, false]⟩ = .ok .csNone ∧ decode ⟨.s4s3, [true, true]⟩ = .ok .ds)
  ∧ (decode ⟨.bhea0, [false, false]⟩ = .ok .word ∧ decode ⟨.bhea0, [false, true]⟩ = .ok .highByte
    ∧ decode ⟨.bhea0, [true, false]⟩ = .ok .lowByte ∧ decode ⟨.bhea0, [true, true]⟩ = .ok .noForm)
  ∧ (decode ⟨.qs1qs0, [false, false]⟩ = .ok .qIdle ∧ decode ⟨.qs1qs0, [false, true]⟩ = .ok .qFirst
    ∧ decode ⟨.qs1qs0, [true, false]⟩ = .ok .qEmpty ∧ decode ⟨.qs1qs0, [true, true]⟩ = .ok .qSubseq)
  ∧ decode ⟨.prefixByte, [true, true, true, true, false, false, false, false]⟩ = .ok .lock
  ∧ ∀ (f : Format) (bs : List Level), f ≠ .prefixByte → bs.length = f.width →
      ∃ i, decode ⟨f, bs⟩ = .ok i

/-- R170: "`S2# = 1` exactly for the three memory kinds and PASSIVE; `S2# = 0` exactly for INTA, the two I/O
kinds and HALT. Among the six data-moving or acknowledging kinds, `S1# = 1` exactly for the two writes." -/
def Obligations.StatusLinePatternsByKind : Prop :=
  ∀ k : Kind,
    (k.code.s2N = true ↔ k = .fetch ∨ k = .memrd ∨ k = .memwr ∨ k = .passive)
    ∧ (k.code.s2N = false ↔ k = .inta ∨ k = .iord ∨ k = .iowr ∨ k = .halt)
    ∧ (k ≠ .halt → k ≠ .passive → (k.code.s1N = true ↔ k = .iowr ∨ k = .memwr))

/-! The step. -/

/-- R13, R20: on the 8086's turn the step takes up EU_ENV's next input, decodes its code and runs it; a whole
request is put on the pins first and its kind's code is the one decoded. A request or access of the instruction
in progress is the same one with that instruction's `lock` (R201); with nothing handed over the step is PASSIVE
(R169; log 10). The lists of inputs and turns, the prefix state, and that a code of S2# S1# S0# runs in minimum
mode too are the model's form (logs 1, 15, 12, 32). -/
def Obligations.StepRunsTheDecodedInstruction : Prop :=
  ∀ (s : State) (rest : List EnvInput), BiuTurn s →
    (∀ (w : CodeWord) (i : Instr), s.pending = .code w :: rest → decode w = .ok i →
      step s = exec i { s with pending := rest, turns := s.turns.tail })
    ∧ (∀ r : BusReq, s.pending = .cycle r :: rest →
      ∃ i, decode r.kind.word = .ok i ∧ i = r.kind.instr
        ∧ step s = exec i { s with pending := rest, turns := s.turns.tail, req := r })
    ∧ (∀ r : BusReq, s.pending = .instrCycle r :: rest →
      step s = step { s with pending := .cycle { r with lock := s.lockPrefix } :: rest })
    ∧ (∀ x : Access, s.pending = .instrAccess x :: rest →
      step s = step { s with pending := .access { x with lock := s.lockPrefix } :: rest })
    ∧ (s.pending = [] →
      step s = exec .passive { s with turns := s.turns.tail, req := { idleRequest with lock := s.lockPrefix } })

/-- R205, R200: LOCK_END ends the lock; the event is in the history, and nothing else changes but the prefix
state and the current request's `lock`, which end there too by the model's choice (log 12). -/
def Obligations.LockEndReleasesTheLock : Prop :=
  ∀ (s : State) (rest : List EnvInput), BiuTurn s → s.cfg.mode = .max → s.pending = .lockEnd :: rest →
    step s = .next { s with pending := rest, turns := s.turns.tail, lockHeld := false, lockPrefix := false
                            req := { s.req with lock := false }
                            history := s.history ++ [.lockEnd] }

/-! The eight bus-cycle types. -/

/-- R162: INTA. One byte from the environment on the low lane; address and BHE# are draws; S4 S3 = 10. The
minimum-mode levels are R176's general knowledge (log 19). -/
def Obligations.InterruptAcknowledgeCycleCompletes : Prop :=
  ∀ s : State, LockAllowed s → s.req.seg = .csNone →
    exec .inta s = .next (done s
      { address := some ⟨Config.cycleAddress s.draws, Config.cycleBheN s.draws⟩, status := status s true false
        typePins := shown s false false false ⟨false, false, true, true, false, false, true⟩
        dHi := none, dLo := some (Config.intaByte s.draws) }
      (joinBytes 0 (Config.intaByte s.draws)) s.mem s.queue)

/-- R163: IORD. Each selected lane carries a draw of its port; the record is the request's. The minimum-mode
levels are R176's general knowledge (log 19). -/
def Obligations.PortReadCycleCompletes : Prop :=
  ∀ s : State, LockAllowed s → s.req.seg = .csNone → s.req.addr.toNat < 2 ^ s.cfg.ioAddrBits → Selects s →
    ∃ hi lo : Option Byte,
      hi = (if s.req.bheN = false then some (Config.portByte s.draws (hiAddr s.req.addr)) else none)
      ∧ lo = (if a0 s.req.addr = false then some (Config.portByte s.draws (loAddr s.req.addr)) else none)
      ∧ exec .iord s = .next (done s
          { address := some ⟨s.req.addr, s.req.bheN⟩, status := status s true false
            typePins := shown s false false true ⟨false, false, false, true, false, true, true⟩
            dHi := hi, dLo := lo } (joinBytes (hi.getD 0) (lo.getD 0)) s.mem s.queue)

/-- R164: IOWR. Both lanes are driven; nothing the model holds but the history changes; IO_ENV takes the
selected lanes' bytes at their ports. The minimum-mode levels are R176's general knowledge (log 19). -/
def Obligations.PortWriteCycleCompletes : Prop :=
  ∀ s : State, LockAllowed s → s.req.seg = .csNone → s.req.addr.toNat < 2 ^ s.cfg.ioAddrBits → Selects s →
    ∃ p : PinRecord,
      p = { address := some ⟨s.req.addr, s.req.bheN⟩, status := status s true false
            typePins := shown s false true false ⟨false, true, true, false, false, true, true⟩
            dHi := some (hiByte s.req.wdata), dLo := some (loByte s.req.wdata) }
      ∧ p.portWrites = (if a0 s.req.addr = false then [(loAddr s.req.addr, loByte s.req.wdata)] else [])
          ++ (if s.req.bheN = false then [(hiAddr s.req.addr, hiByte s.req.wdata)] else [])
      ∧ exec .iowr s = .next (done s p 0 s.mem s.queue)

/-- R165: HALT, with any tag in the request. Address, BHE# and S4 S3 are draws; no lane carries anything. The
minimum-mode levels are R176's general knowledge (log 19). -/
def Obligations.HaltCycleCompletes : Prop :=
  ∀ s : State, LockAllowed s →
    exec .halt s = .next (done s
      { address := some ⟨Config.cycleAddress s.draws, Config.cycleBheN s.draws⟩
        status := status s (Config.haltS4 s.draws) (Config.haltS3 s.draws)
        typePins := shown s false true true ⟨false, true, true, true, true, true, true⟩
        dHi := none, dLo := none } 0 s.mem s.queue)

/-- R166: FETCH in maximum mode. With room in the queue the selected bytes enter it, the lower address first;
without room the cycle is refused (C12). The queue is the spec's general knowledge (log 23). -/
def Obligations.FetchCycleFillsTheQueue : Prop :=
  ∀ (s : State) (bytes : List Byte), s.cfg.mode = .max → s.req.seg = .csNone → Selects s →
    bytes = (readLo s s.req.addr).toList ++ (readHi s s.req.addr s.req.bheN).toList →
    (s.queue.length + bytes.length ≤ s.cfg.queueDepth →
      exec .fetch s = .next (done s
        { address := some ⟨s.req.addr, s.req.bheN⟩, status := status s true false
          typePins := .max ⟨true, false, false, !s.req.lock⟩
          dHi := readHi s s.req.addr s.req.bheN, dLo := readLo s s.req.addr }
        (readValue s s.req.addr s.req.bheN) s.mem (s.queue ++ bytes)))
    ∧ (s.cfg.queueDepth < s.queue.length + bytes.length → exec .fetch s = .refused .queueOverflow)

/-- R166, R176: in minimum mode a FETCH leaves the queue, and its next state is a MEMRD's: "these pins do not
tell a code access from a data read". The minimum-mode levels are R176's general knowledge (log 19). -/
def Obligations.FetchInMinimumModeIsAMemoryRead : Prop :=
  ∀ s : State, s.cfg.mode = .min → s.req.lock = false → s.req.seg = .csNone → Selects s →
    exec .fetch s = exec .memrd s
    ∧ exec .fetch s = .next (afterMemRead s s.req.addr s.req.bheN true false)

/-- R167: MEMRD. The selected lanes carry the bytes of memory; nothing but the history, the read data, the lock
and the draw count changes. The minimum-mode levels are R176's general knowledge (log 19). -/
def Obligations.MemoryReadCycleCompletes : Prop :=
  ∀ s : State, LockAllowed s → Selects s →
    exec .memrd s = .next (afterMemRead s s.req.addr s.req.bheN s.req.seg.code.s4 s.req.seg.code.s3)

/-- R168: MEMWR. The selected banks take their bytes, every other byte of memory reads as before, the memory
stays canonical. The minimum-mode levels are R176's general knowledge (log 19). -/
def Obligations.MemoryWriteCycleCompletes : Prop :=
  ∀ s : State, LockAllowed s → Selects s → s.mem.wf = true →
    ∃ t, exec .memwr s = .next t ∧ t.mem.wf = true
      ∧ AfterMemWrite s t s.req.addr s.req.bheN s.req.seg.code.s4 s.req.seg.code.s3

/-- R169: PASSIVE. Only the type pins have a value; LOCK# and `lock_held` stay. That A19..A0 and BHE# have no value
follows R169 where R130, R144 and U3 call them a draw (log 34). The minimum-mode levels are
R176's general knowledge (log 19). -/
def Obligations.PassiveStepCompletes : Prop :=
  ∀ s : State, LockAllowed s →
    exec .passive s = .next { s with
      rdata := 0, draws := s.draws + 1
      history := s.history ++ [.cycle
        { address := none, status := none
          typePins := match s.cfg.mode with
            | .max => .max ⟨true, true, true, !s.lockHeld⟩
            | .min => .min ⟨Config.passiveMIo s.draws, Config.passiveDtR s.draws, true, true, true, true, false⟩
          dHi := none, dLo := none }] }

/-! Refusals of a bus cycle. -/

/-- R149: a data-moving cycle with BHE# = 1 and A0 = 1 is refused. -/
def Obligations.DataCycleWithoutSelectionIsRefused : Prop :=
  ∀ s : State, LockAllowed s → s.req.bheN = true → a0 s.req.addr = true →
    exec .memrd s = .refused .noSelection ∧ exec .memwr s = .refused .noSelection
    ∧ (s.req.seg = .csNone → exec .fetch s = .refused .noSelection)
    ∧ (s.req.seg = .csNone → s.req.addr.toNat < 2 ^ s.cfg.ioAddrBits →
        exec .iord s = .refused .noSelection ∧ exec .iowr s = .refused .noSelection)

/-- R138: FETCH, IORD, IOWR and INTA carry no tag but CS_NONE. -/
def Obligations.OtherTagsAreRefusedOutsideMemoryData : Prop :=
  ∀ s : State, LockAllowed s → s.req.seg ≠ .csNone →
    exec .fetch s = .refused .segKindMismatch ∧ exec .iord s = .refused .segKindMismatch
    ∧ exec .iowr s = .refused .segKindMismatch ∧ exec .inta s = .refused .segKindMismatch

/-- R163, R164: a port beyond `IO_ADDR_BITS` is refused. -/
def Obligations.PortBeyondTheWidthIsRefused : Prop :=
  ∀ s : State, LockAllowed s → s.req.seg = .csNone → 2 ^ s.cfg.ioAddrBits ≤ s.req.addr.toNat →
    exec .iord s = .refused .portOutOfRange ∧ exec .iowr s = .refused .portOutOfRange

/-- R203: "A request with `lock = 1` when `Cfg.mode = MIN` is refused (`LockInMinMode`)", whatever its kind, tag
and form; and the prefix itself (R201). -/
def Obligations.LockIsRefusedInMinimumMode : Prop :=
  ∀ (s : State) (i : Instr), s.cfg.mode = .min →
    (isCycleCode i = true → s.req.lock = true → exec i s = .refused .lockInMinMode)
    ∧ exec .lock s = .refused .lockInMinMode

/-! Segment tags and transfer forms. -/

/-- R135, R136, R137, R139: on a memory read each tag drives its levels on S4 S3, and changes nothing else. That
a tag code runs the current request's cycle is the model's form (log 2). The minimum-mode levels are R176's
general knowledge (log 19). -/
def Obligations.SegmentTagsOnAMemoryRead : Prop :=
  ∀ s : State, LockAllowed s → Selects s → s.req.kind = .memrd →
    exec .es s = .next (afterMemRead s s.req.addr s.req.bheN false false)
    ∧ exec .ss s = .next (afterMemRead s s.req.addr s.req.bheN false true)
    ∧ exec .csNone s = .next (afterMemRead s s.req.addr s.req.bheN true false)
    ∧ exec .ds s = .next (afterMemRead s s.req.addr s.req.bheN true true)

/-- R135, R136, R137, R139: on a memory write each tag drives its levels on S4 S3; "the `seg` tag is reported on
the pins and has no effect on what `Mem` does" (R78). That a tag code runs the current request's cycle is the
model's form (log 2). The minimum-mode levels are R176's general knowledge (log 19). -/
def Obligations.SegmentTagsOnAMemoryWrite : Prop :=
  ∀ s : State, LockAllowed s → Selects s → s.req.kind = .memwr → s.mem.wf = true →
    (∃ t, exec .es s = .next t ∧ AfterMemWrite s t s.req.addr s.req.bheN false false)
    ∧ (∃ t, exec .ss s = .next t ∧ AfterMemWrite s t s.req.addr s.req.bheN false true)
    ∧ (∃ t, exec .csNone s = .next t ∧ AfterMemWrite s t s.req.addr s.req.bheN true false)
    ∧ (∃ t, exec .ds s = .next t ∧ AfterMemWrite s t s.req.addr s.req.bheN true true)

/-- R134, R138: a tag code on any kind is that kind's cycle with the tag in the request; on FETCH, IORD, IOWR
and INTA the tags ES, SS and DS are refused. That a tag code runs the current request's cycle is the model's
form (log 2). -/
def Obligations.SegmentTagsRunTheRequestsCycle : Prop :=
  ∀ s : State,
    exec .es s = withRequest s.req (exec s.req.kind.instr { s with req := { s.req with seg := .es } })
    ∧ exec .ss s = withRequest s.req (exec s.req.kind.instr { s with req := { s.req with seg := .ss } })
    ∧ exec .csNone s = withRequest s.req (exec s.req.kind.instr { s with req := { s.req with seg := .csNone } })
    ∧ exec .ds s = withRequest s.req (exec s.req.kind.instr { s with req := { s.req with seg := .ds } })
    ∧ (LockAllowed s →
      s.req.kind = .fetch ∨ s.req.kind = .iord ∨ s.req.kind = .iowr ∨ s.req.kind = .inta →
      exec .es s = .refused .segKindMismatch ∧ exec .ss s = .refused .segKindMismatch
      ∧ exec .ds s = .refused .segKindMismatch)

/-- R146: WORD moves `A` (even) on the low lane and `A + 1` on the high lane. That a form code runs the current
request's cycle is the model's form (logs 2, 28). The minimum-mode levels are R176's general knowledge (log 19).
-/
def Obligations.WordFormMovesBothBytes : Prop :=
  ∀ s : State, LockAllowed s → s.mem.wf = true → ∀ A : Addr, A = loAddr s.req.addr →
    a0 A = false
    ∧ (s.req.kind = .memrd → ∃ t, exec .word s = .next t
        ∧ t = afterMemRead s A false s.req.seg.code.s4 s.req.seg.code.s3
        ∧ t.rdata = joinBytes (s.mem.read (A + 1).toNat) (s.mem.read A.toNat))
    ∧ (s.req.kind = .memwr → ∃ t, exec .word s = .next t
        ∧ AfterMemWrite s t A false s.req.seg.code.s4 s.req.seg.code.s3
        ∧ t.mem.read A.toNat = loByte s.req.wdata ∧ t.mem.read (A + 1).toNat = hiByte s.req.wdata
        ∧ ∀ x, x ≠ A.toNat → x ≠ (A + 1).toNat → t.mem.read x = s.mem.read x)

/-- R147: HIGH_BYTE moves the odd address's byte on the high lane; a write leaves `A - 1` alone. That a form
code runs the current request's cycle is the model's form (logs 2, 28). The minimum-mode levels are R176's
general knowledge (log 19). -/
def Obligations.HighByteFormMovesTheOddByte : Prop :=
  ∀ s : State, LockAllowed s → s.mem.wf = true → ∀ A : Addr, A = hiAddr s.req.addr →
    a0 A = true
    ∧ (s.req.kind = .memrd → ∃ t, exec .highByte s = .next t
        ∧ t = afterMemRead s A false s.req.seg.code.s4 s.req.seg.code.s3
        ∧ (lastRecord t).map (fun p => (p.dHi, p.dLo)) = some (some (s.mem.read A.toNat), none))
    ∧ (s.req.kind = .memwr → ∃ t, exec .highByte s = .next t
        ∧ AfterMemWrite s t A false s.req.seg.code.s4 s.req.seg.code.s3
        ∧ t.mem.read A.toNat = hiByte s.req.wdata ∧ ∀ x, x ≠ A.toNat → t.mem.read x = s.mem.read x)

/-- R148: LOW_BYTE moves the even address's byte on the low lane; a write leaves `A + 1` alone. That a form code
runs the current request's cycle is the model's form (logs 2, 28). The minimum-mode levels are R176's general
knowledge (log 19). -/
def Obligations.LowByteFormMovesTheEvenByte : Prop :=
  ∀ s : State, LockAllowed s → s.mem.wf = true → ∀ A : Addr, A = loAddr s.req.addr →
    a0 A = false
    ∧ (s.req.kind = .memrd → ∃ t, exec .lowByte s = .next t
        ∧ t = afterMemRead s A true s.req.seg.code.s4 s.req.seg.code.s3
        ∧ (lastRecord t).map (fun p => (p.dHi, p.dLo)) = some (none, some (s.mem.read A.toNat)))
    ∧ (s.req.kind = .memwr → ∃ t, exec .lowByte s = .next t
        ∧ AfterMemWrite s t A true s.req.seg.code.s4 s.req.seg.code.s3
        ∧ t.mem.read A.toNat = loByte s.req.wdata ∧ ∀ x, x ≠ A.toNat → t.mem.read x = s.mem.read x)

/-- R149: NONE completes without moving a byte on HALT, PASSIVE and (with its tag) INTA, and is refused on a
data-moving kind. That a form code runs the current request's cycle is the model's form (logs 2, 28). -/
def Obligations.NoneFormMovesNothing : Prop :=
  ∀ s : State, LockAllowed s →
    (s.req.kind = .halt ∨ s.req.kind = .passive ∨ (s.req.kind = .inta ∧ s.req.seg = .csNone) →
      ∃ t, exec .noForm s = .next t ∧ exec .noForm s = exec s.req.kind.instr s
        ∧ t.mem = s.mem ∧ t.queue = s.queue ∧ t.history.length = s.history.length + 1)
    ∧ (s.req.kind = .memrd ∨ s.req.kind = .memwr → exec .noForm s = .refused .noSelection)
    ∧ (s.req.kind = .fetch → s.req.seg = .csNone → exec .noForm s = .refused .noSelection)

/-- R140, R143: a form code on any kind is that kind's cycle with the form's levels on BHE# and A0 and the other
address bits as they were. That a form code runs the current request's cycle is the model's form (logs 2, 28).
-/
def Obligations.FormCodesRunTheRequestsCycle : Prop :=
  ∀ (s : State) (A : Addr), (∀ n, 1 ≤ n → A.getLsbD n = s.req.addr.getLsbD n) →
    (a0 A = false →
      exec .word s
        = withRequest s.req (exec s.req.kind.instr { s with req := { s.req with addr := A, bheN := false } })
      ∧ exec .lowByte s
        = withRequest s.req (exec s.req.kind.instr { s with req := { s.req with addr := A, bheN := true } }))
    ∧ (a0 A = true →
      exec .highByte s
        = withRequest s.req (exec s.req.kind.instr { s with req := { s.req with addr := A, bheN := false } })
      ∧ exec .noForm s
        = withRequest s.req (exec s.req.kind.instr { s with req := { s.req with addr := A, bheN := true } }))

/-! The queue status codes. -/

/-- R211: Q_IDLE leaves the queue. The queue is the spec's general knowledge (log 23). -/
def Obligations.QueueIdleLeavesTheQueue : Prop :=
  encode .qIdle = ⟨.qs1qs0, [false, false]⟩
  ∧ ∀ s : State, s.cfg.mode = .max → exec .qIdle s = .next { s with history := s.history ++ [.queueOp .qIdle] }

/-- R212: Q_FIRST takes the head byte; refused on an empty queue. The queue is the spec's general knowledge (log
23). -/
def Obligations.QueueFirstTakesTheHeadByte : Prop :=
  encode .qFirst = ⟨.qs1qs0, [false, true]⟩
  ∧ ∀ s : State, s.cfg.mode = .max →
    (s.queue = [] → exec .qFirst s = .refused .queueUnderflow)
    ∧ ∀ b rest, s.queue = b :: rest →
      exec .qFirst s = .next { s with queue := rest, taken := some b, history := s.history ++ [.queueOp .qFirst] }

/-- R213: Q_EMPTY empties the queue whatever it holds. The queue is the spec's general knowledge (log 23). -/
def Obligations.QueueEmptyDiscardsTheQueue : Prop :=
  encode .qEmpty = ⟨.qs1qs0, [true, false]⟩
  ∧ ∀ s : State, s.cfg.mode = .max →
    exec .qEmpty s = .next { s with queue := [], history := s.history ++ [.queueOp .qEmpty] }

/-- R214: Q_SUBSEQ takes the head byte; "identical to Q_FIRST in its effect on the queue". The queue is the
spec's general knowledge (log 23). -/
def Obligations.QueueSubsequentTakesTheHeadByte : Prop :=
  encode .qSubseq = ⟨.qs1qs0, [true, true]⟩
  ∧ ∀ s : State, s.cfg.mode = .max →
    (s.queue = [] → exec .qSubseq s = .refused .queueUnderflow)
    ∧ ∀ b rest, s.queue = b :: rest →
      exec .qSubseq s = .next { s with queue := rest, taken := some b, history := s.history ++ [.queueOp .qSubseq] }

/-- R205: "Both exist only when `mode = MAX`". The refusal's name is the model's (log 14). -/
def Obligations.QueueOperationsAndLockEndNeedMaximumMode : Prop :=
  ∀ (s : State) (rest : List EnvInput), s.cfg.mode = .min →
    exec .qIdle s = .refused .eventNotInMinMode ∧ exec .qFirst s = .refused .eventNotInMinMode
    ∧ exec .qEmpty s = .refused .eventNotInMinMode ∧ exec .qSubseq s = .refused .eventNotInMinMode
    ∧ (s.pending = .lockEnd :: rest → step s = .refused .eventNotInMinMode)

/-! LOCK. -/

/-- R201: the prefix has no bus cycle and no data effect; only the prefix state changes: EU_ENV's flag, and the
`lock` of the request on the pins. That the flag is state, and that the prefix adds no event to the history, is the
model's form (log 12). -/
def Obligations.LockPrefixChangesOnlyThePrefixState : Prop :=
  ∀ s : State, s.cfg.mode = .max → exec .lock s = .next { s with lockPrefix := true, req := { s.req with lock := true } }

/-- R201, R200: after the prefix, every cycle of the instruction it precedes shows LOCK# low, and the lock and the
prefix stay: a cycle presented by its code, one handed over as the instruction's own, one of an access primitive of
its own, and the second cycle of such a primitive's odd word. The prefix state is the model's form (log 12), and
that the second cycle is the next input (log 33). -/
def Obligations.PrefixedCyclesHoldLockLow : Prop :=
  ∀ s t : State, s.cfg.mode = .max → s.lockPrefix = true →
    (∀ i : Instr, s.req.lock = true → exec i s = .next t →
      t.lockPrefix = true ∧ t.req.lock = true
      ∧ (isCycleCode i = true → performedKind i s ≠ .passive → LockedLow t))
    ∧ (∀ (r : BusReq) (rest : List EnvInput), BiuTurn s → s.pending = .instrCycle r :: rest → r.kind ≠ .passive →
      step s = .next t → LockedLow t ∧ t.req = { r with lock := true })
    ∧ (∀ (x : Access) (rest : List EnvInput), BiuTurn s → s.pending = .instrAccess x :: rest → step s = .next t →
      LockedLow t
      ∧ t.pending = (if x.wide = true ∧ a0 x.addr = true then .accessRest { x with lock := true } :: rest else rest))
    ∧ (∀ (x : Access) (rest : List EnvInput), BiuTurn s → s.pending = .accessRest { x with lock := true } :: rest →
      step s = .next t → LockedLow t ∧ t.pending = rest)

/-- R200: the lock follows each completed cycle's own `lock`, and LOCK# shows it; so at the first cycle that is not
of a prefixed instruction LOCK# goes high and the lock and the prefix end, without LOCK_END. A PASSIVE step, a
queue operation and the prefix keep the lock. The prefix state is the model's form (log 12). -/
def Obligations.LockFollowsTheCyclesRequest : Prop :=
  ∀ (i : Instr) (s t : State), exec i s = .next t →
    (isCycleCode i = true → performedKind i s ≠ .passive →
      t.lockHeld = s.req.lock ∧ t.lockPrefix = (s.lockPrefix && s.req.lock)
      ∧ (s.cfg.mode = .max → ∃ p q, lastRecord t = some p ∧ p.typePins = .max q ∧ q.lockN = !s.req.lock))
    ∧ (isCycleCode i = false ∨ performedKind i s = .passive → t.lockHeld = s.lockHeld)

/-- R204: "It does not change what any bus cycle reads or writes, does not change S7 to S3 or S2# to S0#". Two
requests that differ only in `lock` give cycles that differ only in LOCK#. -/
def Obligations.LockDoesNotChangeTheCycle : Prop :=
  ∀ (i : Instr) (s t : State), s.cfg.mode = .max → s.req.lock = false → isCycleCode i = true →
    exec i s = .next t →
    ∃ t' p p', exec i { s with req := { s.req with lock := true } } = .next t'
      ∧ t'.mem = t.mem ∧ t'.queue = t.queue ∧ t'.rdata = t.rdata
      ∧ lastRecord t = some p ∧ lastRecord t' = some p'
      ∧ p'.address = p.address ∧ p'.status = p.status ∧ p'.dHi = p.dHi ∧ p'.dLo = p.dLo
      ∧ ∃ q q', p.typePins = .max q ∧ p'.typePins = .max q'
        ∧ q'.s2N = q.s2N ∧ q'.s1N = q.s1N ∧ q'.s0N = q.s0N

/-! The second bus master. -/

/-- R244, R202: on its turn, present and not locked out, OTHER reads or writes memory by the lane rule; only
memory, the history, its own list and the turns change. The turns and the lanes in the event are the model's
form (logs 15, 17). -/
def Obligations.OtherMastersCycleFollowsTheLanes : Prop :=
  ∀ (s : State) (r : OtherReq) (turns : List Agent) (rest : List OtherReq),
    s.cfg.mode = .max → s.cfg.otherMaster = true → s.lockHeld = false → s.mem.wf = true →
    s.turns = .other :: turns → s.otherPending = r :: rest → (r.bheN = false ∨ a0 r.addr = false) →
    (r.isWrite = false →
      step s = .next { s with
        turns := turns, otherPending := rest
        history := s.history ++ [.other r.addr r.bheN false (readHi s r.addr r.bheN) (readLo s r.addr)] })
    ∧ (r.isWrite = true →
      ∃ m : Memory, step s = .next { s with
          turns := turns, otherPending := rest, mem := m
          history := s.history
            ++ [.other r.addr r.bheN true (some (hiByte r.wdata)) (some (loByte r.wdata))] }
        ∧ (r.bheN = false → m.read (hiAddr r.addr).toNat = hiByte r.wdata)
        ∧ (a0 r.addr = false → m.read (loAddr r.addr).toNat = loByte r.wdata)
        ∧ ∀ x, x ∉ storedAddrs r.addr r.bheN → m.read x = s.mem.read x)

/-- R202, R243: "While `st.lock_held = 1` the agent `OTHER` … has no step", nor in minimum mode, nor when it is
absent: no cycle of its own enters the history and its list of cycles stays. The list of its cycles is the
model's form (log 15). -/
def Obligations.LockedOutOtherMasterHasNoStep : Prop :=
  ∀ s t : State, (s.lockHeld = true ∨ s.cfg.mode = .min ∨ s.cfg.otherMaster = false) → step s = .next t →
    t.otherPending = s.otherPending
    ∧ ∀ e ∈ newEvents s t, ∀ a b w hi lo, e ≠ .other a b w hi lo

/-- R245: a cycle of OTHER leaves the 8086's own state: queue, lock, prefix, request, read data, pending
inputs. -/
def Obligations.OtherMasterSharesOnlyMemory : Prop :=
  ∀ (s t : State) (r : OtherReq), otherCycle r s = .next t →
    t.queue = s.queue ∧ t.lockHeld = s.lockHeld ∧ t.lockPrefix = s.lockPrefix ∧ t.req = s.req
    ∧ t.rdata = s.rdata ∧ t.taken = s.taken ∧ t.pending = s.pending ∧ t.cfg = s.cfg

/-! Memory. -/

/-- R61: "FETCH and MEMRD read; MEMWR writes. No other type touches `Mem`." A fetch or a memory read leaves
memory and shows its bytes; a memory write stores the request's bytes on the selected lanes and no other; any
other instruction leaves memory and does the same whatever memory holds. -/
def Obligations.OnlyMemoryCyclesTouchMemory : Prop :=
  ∀ (i : Instr) (s t : State), exec i s = .next t →
    (performedKind i s = .fetch ∨ performedKind i s = .memrd →
      t.mem = s.mem ∧ ∃ p ad, lastRecord t = some p ∧ p.address = some ad
        ∧ p.dHi = readHi s ad.a ad.bheN ∧ p.dLo = readLo s ad.a)
    ∧ (performedKind i s = .memwr → s.mem.wf = true →
      ∃ p ad, lastRecord t = some p ∧ p.address = some ad
        ∧ (ad.bheN = false → t.mem.read (hiAddr ad.a).toNat = hiByte s.req.wdata)
        ∧ (a0 ad.a = false → t.mem.read (loAddr ad.a).toNat = loByte s.req.wdata)
        ∧ ∀ x, x ∉ storedAddrs ad.a ad.bheN → t.mem.read x = s.mem.read x)
    ∧ (performedKind i s ≠ .fetch → performedKind i s ≠ .memrd → performedKind i s ≠ .memwr →
      t.mem = s.mem ∧ ∀ m : Memory, exec i { s with mem := m } = .next { t with mem := m })

/-- R71, R80: a MEMRD after a MEMWR of the same request returns the written bytes on the selected lanes; an
unselected lane carries nothing. -/
def Obligations.ReadAfterWriteReturnsTheWrittenBytes : Prop :=
  ∀ s t : State, LockAllowed s → s.mem.wf = true → exec .memwr s = .next t →
    ∃ u p, exec .memrd t = .next u ∧ lastRecord u = some p
      ∧ p.dHi = (if s.req.bheN = false then some (hiByte s.req.wdata) else none)
      ∧ p.dLo = (if a0 s.req.addr = false then some (loByte s.req.wdata) else none)

/-- R72, R74: a word read at an odd address, of memory, of ports or as a fetch, is two byte cycles, the odd byte
first on the high lane, then the next byte on the low lane; it returns `Mem[a+1] ++ Mem[a]`, or the two ports'
bytes. That the result stands in the state is the model's form (log 24). The minimum-mode levels are R176's general
knowledge (log 19), the order of the cycles is the spec's (GK13). -/
def Obligations.SplitWordReadJoinsTwoCycles : Prop :=
  ∀ (s : State) (x : Access) (lo hi : Byte), Reads x → x.wide = true → a0 x.addr = true → x.addr ≠ 0xFFFFF#20 →
    s.cfg.splitOddWord = true → (s.cfg.mode = .max ∨ x.lock = false) → Accepted s x 2 →
    s.turns = [] → s.pending = [.access x] →
    lo = accessByte s x s.draws x.addr → hi = accessByte s x (s.draws + 1) (x.addr + 1) →
    ∃ t, Host.Core.run core 2 s = .next t ∧ t.mem = s.mem
      ∧ AfterAccess s t x []
          [accessRecord s x x.addr false (some lo) none, accessRecord s x (x.addr + 1) true none (some hi)]
          (accessQueue s x [lo, hi]) (joinBytes hi lo) lo

/-- R73, R74: a word write at an odd address stores its low byte at `a` and its high byte at `a + 1`, in two
cycles, and no other byte; at ports it gives them those bytes. The lane of each cycle that is not selected carries
some byte. The minimum-mode levels are R176's general knowledge (log 19), the order of the cycles is the spec's
(GK13). -/
def Obligations.SplitWordWriteStoresTwoBytes : Prop :=
  ∀ (s : State) (x : Access), Writes x → x.wide = true → a0 x.addr = true → x.addr ≠ 0xFFFFF#20 →
    s.cfg.splitOddWord = true → (s.cfg.mode = .max ∨ x.lock = false) → Accepted s x 2 →
    s.mem.wf = true → s.turns = [] → s.pending = [.access x] →
    ∃ (t : State) (d e : Byte) (p q : PinRecord), Host.Core.run core 2 s = .next t
      ∧ p = accessRecord s x x.addr false (some (loByte x.wdata)) (some d)
      ∧ q = accessRecord s x (x.addr + 1) true (some e) (some (hiByte x.wdata))
      ∧ AfterAccess s t x [] [p, q] s.queue s.result s.half
      ∧ Stored s t x [p, q] [(x.addr, loByte x.wdata), (x.addr + 1, hiByte x.wdata)]

/-- R72, R73: a word at an odd address is refused with `split_odd_word = false`, and at FFFFFh with it true;
nothing happens first. At FFFFFh with `split_odd_word = false` the refusal's name follows the order of R72's
pseudocode, against D5's words "`TopOfMemoryWord` in either case" (DEDUCED, log 25). -/
def Obligations.OddWordRefusals : Prop :=
  ∀ (s : State) (x : Access) (rest : List EnvInput), x.wide = true → a0 x.addr = true → BiuTurn s →
    s.pending = .access x :: rest →
    (s.cfg.splitOddWord = false → step s = .refused .oddWordNotSplit)
    ∧ (s.cfg.splitOddWord = true → x.addr = 0xFFFFF#20 → step s = .refused .topOfMemoryWord)

/-- R72, R73, R74: a byte read or write uses the lane its address selects, an aligned word both; each is one cycle,
of memory, of ports (with the tag CS_NONE) or as a fetch. The lane a byte write does not select carries some byte.
That a read's result stands in the state is the model's form (log 24). The minimum-mode levels are R176's general
knowledge (log 19). -/
def Obligations.UnsplitAccessesTakeOneCycle : Prop :=
  ∀ (s : State) (x : Access) (rest : List EnvInput), (s.cfg.mode = .max ∨ x.lock = false) → BiuTurn s →
    s.pending = .access x :: rest →
    (Reads x → x.wide = false → Accepted s x 1 → ∀ b : Byte, b = accessByte s x s.draws x.addr →
      ∃ t, step s = .next t ∧ t.mem = s.mem
        ∧ AfterAccess s t x rest
            [if a0 x.addr = true then accessRecord s x x.addr false (some b) none
              else accessRecord s x x.addr true none (some b)]
            (accessQueue s x [b]) (joinBytes 0 b) s.half)
    ∧ (Reads x → x.wide = true → a0 x.addr = false → Accepted s x 2 → ∀ lo hi : Byte,
      lo = accessByte s x s.draws x.addr → hi = accessByte s x s.draws (x.addr + 1) →
      ∃ t, step s = .next t ∧ t.mem = s.mem
        ∧ AfterAccess s t x rest [accessRecord s x x.addr false (some hi) (some lo)]
            (accessQueue s x [lo, hi]) (joinBytes hi lo) s.half)
    ∧ (Writes x → x.wide = false → Accepted s x 1 → s.mem.wf = true →
      ∃ (t : State) (d : Byte) (p : PinRecord), step s = .next t
        ∧ p = (if a0 x.addr = true then accessRecord s x x.addr false (some (loByte x.wdata)) (some d)
            else accessRecord s x x.addr true (some d) (some (loByte x.wdata)))
        ∧ AfterAccess s t x rest [p] s.queue s.result s.half ∧ Stored s t x [p] [(x.addr, loByte x.wdata)])
    ∧ (Writes x → x.wide = true → a0 x.addr = false → Accepted s x 2 → s.mem.wf = true →
      ∃ (t : State) (p : PinRecord), step s = .next t
        ∧ p = accessRecord s x x.addr false (some (hiByte x.wdata)) (some (loByte x.wdata))
        ∧ AfterAccess s t x rest [p] s.queue s.result s.half
        ∧ Stored s t x [p] [(x.addr, loByte x.wdata), (x.addr + 1, hiByte x.wdata)])

/-- R83: a byte fetched and then written over in memory leaves the queue as it was fetched. The queue is the
spec's general knowledge (log 23). -/
def Obligations.FetchedByteSurvivesALaterWrite : Prop :=
  ∀ (s : State) (f w : BusReq), s.cfg.mode = .max → s.queue = [] → 2 ≤ s.cfg.queueDepth → s.turns = [] →
    f.kind = .fetch → f.seg = .csNone → (f.bheN = false ∨ a0 f.addr = false) →
    w = { f with kind := .memwr, wdata := w.wdata } →
    s.pending = [.cycle f, .cycle w, .code ⟨.qs1qs0, [false, true]⟩] →
    ∃ t, Host.Core.run core 3 s = .next t ∧ t.taken = some (s.mem.read f.addr.toNat)
      ∧ t.queue = (if f.bheN = false ∧ a0 f.addr = false then [s.mem.read (f.addr.toNat + 1)] else [])

/-- R234: one interrupt acknowledge is `INTA_CYCLES` consecutive INTA cycles: each shows 000, and nothing but
the history, the read data, the lock and the draw count changes. That one input stands for it is the model's
form (log 27). -/
def Obligations.AcknowledgeIsConsecutiveIntaCycles : Prop :=
  ∀ (s : State) (r : BusReq), s.cfg.mode = .max → s.cfg.wf = true → r.seg = .csNone → s.turns = [] →
    s.pending = [.acknowledge r] →
    ∃ t es, Host.Core.run core s.cfg.intaCycles s = .next t ∧ t.history = s.history ++ es
      ∧ es.length = s.cfg.intaCycles ∧ t.mem = s.mem ∧ t.queue = s.queue ∧ t.pending = []
      ∧ ∀ e ∈ es, ∃ p q, e = .cycle p ∧ p.typePins = .max q ∧ q.s2N = false ∧ q.s1N = false ∧ q.s0N = false

/-! The pins and the 8288. -/

/-- R130, R142: the address phase of every cycle that has an address carries the request's address (so
A19..A16 its top four bits) and its BHE# level, in both modes. -/
def Obligations.AddressPhaseCarriesTheRequest : Prop :=
  ∀ (i : Instr) (s t : State), i = .iord ∨ i = .iowr ∨ i = .fetch ∨ i = .memrd ∨ i = .memwr →
    exec i s = .next t →
    ∃ p ad, lastRecord t = some p ∧ p.address = some ad ∧ ad.a = s.req.addr ∧ ad.bheN = s.req.bheN

/-- R131, R145: S7 is 1 and S6 is 0 in the status phase of every cycle; every cycle but PASSIVE has one. So
`ST_HI` is 10h to 17h (R105). -/
def Obligations.StatusPhaseConstantsOnEveryCycle : Prop :=
  ∀ (i : Instr) (s t : State), exec i s = .next t → isCycleCode i = true →
    ∃ p, lastRecord t = some p
      ∧ (p.status = none ↔ performedKind i s = .passive)
      ∧ ∀ st, p.status = some st → st.s7 = true ∧ st.s6 = false ∧ 0x10 ≤ st.stHi.toNat ∧ st.stHi.toNat ≤ 0x17

/-- R160: in maximum mode every completed cycle shows its kind's code on S2# S1# S0#. -/
def Obligations.StatusLinesShowTheKind : Prop :=
  ∀ (i : Instr) (s t : State), exec i s = .next t → isCycleCode i = true → s.cfg.mode = .max →
    ∃ p q, lastRecord t = some p ∧ p.typePins = .max q
      ∧ decode ⟨.s2s1s0, [q.s2N, q.s1N, q.s0N]⟩ = .ok (performedKind i s).instr

/-- R130, R134, R140, R160, R246: from the pins of a completed data-moving cycle in maximum mode an observer
reads back exactly its type, address, form, segment, IF and lock, and of a write its data on D15..D0 (R164, R168);
a read has none. S5's polarity is the spec's decision D3 (log
21). -/
def Obligations.PinsEncodeTheWholeRequest : Prop :=
  ∀ (i : Instr) (s t : State) (k : Kind), s.cfg.mode = .max →
    (i = .iord ∧ k = .iord ∨ i = .iowr ∧ k = .iowr ∨ i = .fetch ∧ k = .fetch ∨ i = .memrd ∧ k = .memrd
      ∨ i = .memwr ∧ k = .memwr) →
    exec i s = .next t →
    (lastRecord t).bind PinRecord.seen
      = some { kind := k, addr := s.req.addr, form := formOf s.req.bheN s.req.addr, seg := s.req.seg
               ifFlag := s.req.ifFlag, locked := s.req.lock }
    ∧ (k = .iowr ∨ k = .memwr →
      (lastRecord t).map (fun p => (p.dHi, p.dLo)) = some (some (hiByte s.req.wdata), some (loByte s.req.wdata)))

/-- R181: the command the 8288 gives during each completed cycle. -/
def Obligations.ControllerCommandOfEachCycle : Prop :=
  ∀ (i : Instr) (s t : State), exec i s = .next t → isCycleCode i = true → s.cfg.mode = .max →
    ∃ p o, lastRecord t = some p ∧ p.controller = some o
      ∧ (o.mrdcN = false ↔ performedKind i s = .fetch ∨ performedKind i s = .memrd)
      ∧ (o.mwtcN = false ↔ performedKind i s = .memwr)
      ∧ (o.iorcN = false ↔ performedKind i s = .iord)
      ∧ (o.iowcN = false ↔ performedKind i s = .iowr)
      ∧ (o.intaN = false ↔ performedKind i s = .inta)

/-- R181, R182, R184: "At most one of the four named command outputs is low at any time"; the advanced write
commands go with the normal ones; ALE pulses on every code but 111; DT/R* as far as R182 states it. The outputs
R181 does not pair are general knowledge (log 18). -/
def Obligations.ControllerOutputsByCode : Prop :=
  ∀ c : KindCode,
    ((if (bc8288 c).mrdcN then 0 else 1) + (if (bc8288 c).mwtcN then 0 else 1)
      + (if (bc8288 c).iorcN then 0 else 1) + (if (bc8288 c).iowcN then 0 else 1) ≤ 1)
    ∧ (bc8288 c).amwcN = (bc8288 c).mwtcN ∧ (bc8288 c).aiowcN = (bc8288 c).iowcN
    ∧ ((bc8288 c).ale = false ↔ c = ⟨true, true, true⟩)
    ∧ (c = ⟨false, true, false⟩ ∨ c = ⟨true, true, false⟩ → (bc8288 c).dtR = true)
    ∧ (c.kind = .inta ∨ c.kind = .iord ∨ c.kind = .fetch ∨ c.kind = .memrd → (bc8288 c).dtR = false)

/-! The whole machine. -/

/-- R42: the initial state's defaults, for every configuration, and the model's own reset choices (log 5 to
log 8). -/
def Obligations.ResetLeavesTheDefaults : Prop :=
  State.reset.queue = [] ∧ State.reset.lockHeld = false ∧ State.reset.history = [] ∧ State.reset.mem = []
    ∧ State.reset.cfg.wf = true ∧ State.reset.cfg.ioAddrBits = 16 ∧ State.reset.cfg.queueDepth = 6
    ∧ State.reset.cfg.intaCycles = 2 ∧ State.reset.cfg.splitOddWord = true
    ∧ ∀ c : Cfg, (State.initial c).cfg = c ∧ (State.initial c).safe = true

/-- The reset state is safe (the base of the invariant). It rests on the reset values the model chose (logs 5 to
8). -/
def Obligations.ResetIsSafe : Prop := State.reset.safe = true

/-- The invariant of every step: memory canonical, queue within its depth (R41), every event one this mode's
8086 can produce (R105, R12, R149, R205), the lock the one the history shows, and no cycle of OTHER where LOCK#
is held (R82). -/
def Obligations.EveryStepKeepsTheStateSafe : Prop :=
  ∀ s t : State, s.safe = true → step s = .next t → t.safe = true

/-- R30, R6: the configuration does not change during a run. -/
def Obligations.ConfigurationIsFixedForARun : Prop :=
  ∀ (n : Nat) (s t : State), Host.Core.run core n s = .next t → t.cfg = s.cfg

/-- R41: the history is only ever appended to, by at most one event a step. -/
def Obligations.HistoryOnlyGrows : Prop :=
  ∀ (n : Nat) (s t : State), Host.Core.run core n s = .next t →
    ∃ es : List Event, es.length ≤ n ∧ t.history = s.history ++ es

/-- R80: sequential consistency at the grain of one bus cycle. On every run, by either master, each read
returns for each selected byte what the latest earlier write of the run left there, or the starting memory's
byte; and the memory at the end is the starting memory with the writes seen on the pins. -/
def Obligations.EveryReadSeesTheLatestWrite : Prop :=
  ∀ (n : Nat) (s t : State), Host.Core.run core n s = .next t →
    readsSeeLatestWrites s.mem (newEvents s t) = true ∧ t.mem = (newEvents s t).foldl replayMem s.mem

/-- R215, R216, R246, D12: an observer that keeps a copy of the queue from the FETCH cycles and QS1 QS0 alone has
the 8086's queue after every run. The whole queue mechanism is general knowledge (GK11, as R215 and R216 mark
themselves; PRESUMED, log 23). -/
def Obligations.ObserverKeepsACopyOfTheQueue : Prop :=
  ∀ (n : Nat) (s t : State), Host.Core.run core n s = .next t →
    t.queue = (newEvents s t).foldl replayQueue s.queue

/-- R82, R202: on every run no cycle of OTHER stands where LOCK# is held low, and the lock is what the pins
show. -/
def Obligations.NoOtherCycleInsideALockedSpan : Prop :=
  ∀ (n : Nat) (s t : State), Host.Core.run core n s = .next t →
    lockRespected s.lockHeld (newEvents s t) = true ∧ t.lockHeld = (newEvents s t).foldl replayLock s.lockHeld
end

