-- ==== Sys2Proof/Laws/Memory.lean ====
section
/-! SUPPORT. The laws of memory: read after write, every other byte as before, and that each memory operation
keeps the canonical form. -/

namespace Sys2Proof.Machine

theorem Memory.wfFrom_mono {low low' : Nat} (h : low' ≤ low) :
    ∀ {m : Memory}, Memory.wfFrom low m = true → Memory.wfFrom low' m = true
  | [], _ => rfl
  | (k, v) :: m, hw => by
    simp only [Memory.wfFrom, Bool.and_eq_true, decide_eq_true_eq] at hw ⊢
    exact ⟨⟨⟨by omega, hw.1.1.2⟩, hw.1.2⟩, hw.2⟩

/-- A byte below the bound of a canonical memory is not listed. -/
theorem Memory.read_below {low a : Nat} (h : a < low) :
    ∀ {m : Memory}, Memory.wfFrom low m = true → Memory.read m a = Memory.unlisted
  | [], _ => rfl
  | (k, v) :: m, hw => by
    simp only [Memory.wfFrom, Bool.and_eq_true, decide_eq_true_eq] at hw
    rw [Memory.read, if_neg (by omega)]
    exact Memory.read_below (low := k + 1) (by omega) hw.2

/-- A read of the written byte gives the written value. -/
theorem Memory.read_write_same {a : Nat} {b : Byte} :
    ∀ {low : Nat} {m : Memory}, Memory.wfFrom low m = true → Memory.read (Memory.write m a b) a = b
  | _, [], _ => by
    by_cases hb : b = Memory.unlisted <;> simp [Memory.write, Memory.read, hb]
  | low, (k, v) :: m, hw => by
    simp only [Memory.wfFrom, Bool.and_eq_true, decide_eq_true_eq] at hw
    rw [Memory.write]
    split
    · split
      · rename_i hlt hb
        rw [Memory.read, if_neg (by omega), hb]
        exact Memory.read_below (low := k + 1) (by omega) hw.2
      · simp [Memory.read]
    · split
      · split
        · rename_i _ hk hb
          rw [hb]
          exact Memory.read_below (low := k + 1) (by omega) hw.2
        · simp [Memory.read]
      · rename_i hlt hk
        rw [Memory.read, if_neg hk]
        exact Memory.read_write_same hw.2

/-- Every other byte reads as before, in any memory. -/
theorem Memory.read_write_other {a a' : Nat} {b : Byte} (h : a' ≠ a) :
    ∀ {m : Memory}, Memory.read (Memory.write m a b) a' = Memory.read m a'
  | [] => by by_cases hb : b = Memory.unlisted <;> simp [Memory.write, Memory.read, hb, h]
  | (k, v) :: m => by
    have ih := Memory.read_write_other h (m := m) (b := b)
    rw [Memory.write]
    split
    · split
      · rfl
      · simp [Memory.read, h]
    · split
      · rename_i hk
        split <;> simp [Memory.read, h, ← hk]
      · simp only [Memory.read, ih]

/-- A write keeps the canonical form. -/
theorem Memory.write_wfFrom {a : Nat} {b : Byte} (ha : a < 2 ^ 20) :
    ∀ {low : Nat} {m : Memory}, low ≤ a → Memory.wfFrom low m = true →
      Memory.wfFrom low (Memory.write m a b) = true
  | low, [], hl, _ => by
    by_cases hb : b = Memory.unlisted <;> simp [Memory.write, Memory.wfFrom, hb, hl]
    omega
  | low, (k, v) :: m, hl, hw => by
    have hw' := hw
    simp only [Memory.wfFrom, Bool.and_eq_true, decide_eq_true_eq] at hw'
    obtain ⟨⟨⟨hlk, hk20⟩, hv⟩, hm⟩ := hw'
    rw [Memory.write]
    split
    · split
      · exact hw
      · rename_i hlt hb
        simp only [Memory.wfFrom, Bool.and_eq_true, decide_eq_true_eq, bne_iff_ne]
        exact ⟨⟨⟨hl, ha⟩, hb⟩, ⟨⟨by omega, hk20⟩, by simpa using hv⟩, hm⟩
    · split
      · rename_i hlt hk
        split
        · exact Memory.wfFrom_mono (by omega) hm
        · rename_i hb
          simp only [Memory.wfFrom, Bool.and_eq_true, decide_eq_true_eq, bne_iff_ne]
          exact ⟨⟨⟨hl, ha⟩, hb⟩, by rw [hk]; exact hm⟩
      · simp only [Memory.wfFrom, Bool.and_eq_true, decide_eq_true_eq]
        exact ⟨⟨⟨hlk, hk20⟩, hv⟩, Memory.write_wfFrom ha (by omega) hm⟩

theorem Memory.write_wf {m : Memory} {a : Addr} {b : Byte} (h : m.wf = true) :
    (Memory.write m a.toNat b).wf = true :=
  Memory.write_wfFrom a.isLt (Nat.zero_le _) h

/-- The lane rule keeps the canonical form. -/
theorem writeLanes_wf {m : Memory} (a : Addr) (bheN : Level) (w : Word16) (h : m.wf = true) :
    (writeLanes m a bheN w).wf = true := by
  unfold writeLanes
  split <;> split <;> simp only [Memory.write_wf, h]

/-- Both bank addresses of a word differ. -/
theorem hiAddr_ne_loAddr (a : Addr) : (hiAddr a).toNat ≠ (loAddr a).toNat := by
  intro h
  have h' : hiAddr a = loAddr a := BitVec.eq_of_toNat_eq h
  have := congrArg (fun x => x.getLsbD 0) h'
  simp [hiAddr, loAddr] at this

/-- A write leaves every byte but the stored ones alone (R85, R141). -/
theorem writeLanes_read_other {m : Memory} {a : Addr} {bheN : Level} {w : Word16} {x : Nat}
    (h : x ∉ storedAddrs a bheN) : (writeLanes m a bheN w).read x = m.read x := by
  simp only [storedAddrs, List.mem_append, not_or] at h
  unfold writeLanes
  split <;> split <;> simp_all [Memory.read_write_other]

/-- The selected odd-bank byte after a write (R141). -/
theorem writeLanes_read_hi {m : Memory} {a : Addr} {bheN : Level} {w : Word16} (hm : m.wf = true)
    (h : hiSelected bheN = true) : (writeLanes m a bheN w).read (hiAddr a).toNat = hiByte w := by
  unfold writeLanes
  rw [if_pos h]
  split
  · rw [Memory.read_write_other (hiAddr_ne_loAddr a)]
    exact Memory.read_write_same hm
  · exact Memory.read_write_same hm

/-- The selected even-bank byte after a write (R141). -/
theorem writeLanes_read_lo {m : Memory} {a : Addr} {bheN : Level} {w : Word16} (hm : m.wf = true)
    (h : loSelected a = true) : (writeLanes m a bheN w).read (loAddr a).toNat = loByte w := by
  unfold writeLanes
  rw [if_pos h]
  split
  · exact Memory.read_write_same (low := 0) (Memory.write_wf hm)
  · exact Memory.read_write_same hm

/-- Reset memory has the canonical form. -/
theorem reset_mem_wf : State.reset.mem.wf = true := rfl

@[simp] theorem joinBytes_hiByte_loByte (w : Word16) : joinBytes (hiByte w) (loByte w) = w := by
  apply BitVec.eq_of_getLsbD_eq
  intro i hi
  simp only [joinBytes, hiByte, loByte, BitVec.getLsbD_or, BitVec.getLsbD_shiftLeft, BitVec.getLsbD_setWidth,
    BitVec.getLsbD_extractLsb']
  by_cases h : i < 8
  · simp [h, hi]
  · simp [h, hi, show i - 8 < 8 by omega, show i - 8 < 16 by omega, show 8 + (i - 8) = i by omega]

@[simp] theorem hiByte_joinBytes (h l : Byte) : hiByte (joinBytes h l) = h := by
  apply BitVec.eq_of_getLsbD_eq
  intro i hi
  simp [hiByte, joinBytes, hi, show 8 + i < 16 by omega]

@[simp] theorem loByte_joinBytes (h l : Byte) : loByte (joinBytes h l) = l := by
  apply BitVec.eq_of_getLsbD_eq
  intro i hi
  simp [loByte, joinBytes, hi, show i < 16 by omega]

end Sys2Proof.Machine
end

