-- ==== Sys2Proof/Laws/State.lean ====
section
/-! SUPPORT. One lemma per field for each named update of the state, so that no proof unfolds a record
update. -/

namespace Sys2Proof.Machine

variable (s : State) (r : BusReq) (p : CyclePart)

/-! The state after a bus cycle. -/

@[simp] theorem closeCycle_cfg : (s.closeCycle r p).cfg = s.cfg := rfl
@[simp] theorem closeCycle_mem : (s.closeCycle r p).mem = p.mem := rfl
@[simp] theorem closeCycle_queue : (s.closeCycle r p).queue = p.queue := rfl
@[simp] theorem closeCycle_lockHeld : (s.closeCycle r p).lockHeld = lockHeldAfter s.lockHeld r := rfl
@[simp] theorem closeCycle_history :
    (s.closeCycle r p).history = s.history ++ [.cycle (p.pinRecord r s)] := rfl
@[simp] theorem closeCycle_rdata : (s.closeCycle r p).rdata = p.rdata := rfl
@[simp] theorem closeCycle_taken : (s.closeCycle r p).taken = s.taken := rfl
@[simp] theorem closeCycle_result : (s.closeCycle r p).result = s.result := rfl
@[simp] theorem closeCycle_half : (s.closeCycle r p).half = s.half := rfl
@[simp] theorem closeCycle_req : (s.closeCycle r p).req = s.req := rfl
@[simp] theorem closeCycle_lockPrefix :
    (s.closeCycle r p).lockPrefix = lockPrefixAfter s.lockPrefix r := rfl
@[simp] theorem closeCycle_pending : (s.closeCycle r p).pending = s.pending := rfl
@[simp] theorem closeCycle_otherPending : (s.closeCycle r p).otherPending = s.otherPending := rfl
@[simp] theorem closeCycle_turns : (s.closeCycle r p).turns = s.turns := rfl
@[simp] theorem closeCycle_draws : (s.closeCycle r p).draws = s.draws + 1 := rfl

/-! The value of a read primitive: only `result` and `half` can change. -/

variable (f : Finish)

@[simp] theorem finish_cfg : (finish f s).cfg = s.cfg := by cases f <;> rfl
@[simp] theorem finish_mem : (finish f s).mem = s.mem := by cases f <;> rfl
@[simp] theorem finish_queue : (finish f s).queue = s.queue := by cases f <;> rfl
@[simp] theorem finish_lockHeld : (finish f s).lockHeld = s.lockHeld := by cases f <;> rfl
@[simp] theorem finish_history : (finish f s).history = s.history := by cases f <;> rfl
@[simp] theorem finish_rdata : (finish f s).rdata = s.rdata := by cases f <;> rfl
@[simp] theorem finish_taken : (finish f s).taken = s.taken := by cases f <;> rfl
@[simp] theorem finish_req : (finish f s).req = s.req := by cases f <;> rfl
@[simp] theorem finish_lockPrefix : (finish f s).lockPrefix = s.lockPrefix := by cases f <;> rfl
@[simp] theorem finish_pending : (finish f s).pending = s.pending := by cases f <;> rfl
@[simp] theorem finish_otherPending : (finish f s).otherPending = s.otherPending := by cases f <;> rfl
@[simp] theorem finish_turns : (finish f s).turns = s.turns := by cases f <;> rfl
@[simp] theorem finish_draws : (finish f s).draws = s.draws := by cases f <;> rfl

/-! The request with another field on the pins. -/

@[simp] theorem withLock_kind (b : Bool) : (r.withLock b).kind = r.kind := rfl
@[simp] theorem withLock_addr (b : Bool) : (r.withLock b).addr = r.addr := rfl
@[simp] theorem withLock_bheN (b : Bool) : (r.withLock b).bheN = r.bheN := rfl
@[simp] theorem withLock_seg (b : Bool) : (r.withLock b).seg = r.seg := rfl
@[simp] theorem withLock_ifFlag (b : Bool) : (r.withLock b).ifFlag = r.ifFlag := rfl
@[simp] theorem withLock_lock (b : Bool) : (r.withLock b).lock = b := rfl
@[simp] theorem withLock_wdata (b : Bool) : (r.withLock b).wdata = r.wdata := rfl

@[simp] theorem access_withLock_kind (x : Access) (b : Bool) : (x.withLock b).kind = x.kind := rfl
@[simp] theorem access_withLock_addr (x : Access) (b : Bool) : (x.withLock b).addr = x.addr := rfl
@[simp] theorem access_withLock_wide (x : Access) (b : Bool) : (x.withLock b).wide = x.wide := rfl
@[simp] theorem access_withLock_wdata (x : Access) (b : Bool) : (x.withLock b).wdata = x.wdata := rfl
@[simp] theorem access_withLock_seg (x : Access) (b : Bool) : (x.withLock b).seg = x.seg := rfl
@[simp] theorem access_withLock_ifFlag (x : Access) (b : Bool) : (x.withLock b).ifFlag = x.ifFlag := rfl
@[simp] theorem access_withLock_lock (x : Access) (b : Bool) : (x.withLock b).lock = b := rfl

variable (k : Kind) (t : Seg) (g : Form)

@[simp] theorem withKind_kind : (r.withKind k).kind = k := rfl
@[simp] theorem withKind_addr : (r.withKind k).addr = r.addr := rfl
@[simp] theorem withKind_bheN : (r.withKind k).bheN = r.bheN := rfl
@[simp] theorem withKind_seg : (r.withKind k).seg = r.seg := rfl
@[simp] theorem withKind_ifFlag : (r.withKind k).ifFlag = r.ifFlag := rfl
@[simp] theorem withKind_lock : (r.withKind k).lock = r.lock := rfl
@[simp] theorem withKind_wdata : (r.withKind k).wdata = r.wdata := rfl

@[simp] theorem withSeg_kind : (r.withSeg t).kind = r.kind := rfl
@[simp] theorem withSeg_addr : (r.withSeg t).addr = r.addr := rfl
@[simp] theorem withSeg_bheN : (r.withSeg t).bheN = r.bheN := rfl
@[simp] theorem withSeg_seg : (r.withSeg t).seg = t := rfl
@[simp] theorem withSeg_ifFlag : (r.withSeg t).ifFlag = r.ifFlag := rfl
@[simp] theorem withSeg_lock : (r.withSeg t).lock = r.lock := rfl
@[simp] theorem withSeg_wdata : (r.withSeg t).wdata = r.wdata := rfl

@[simp] theorem withForm_kind : (r.withForm g).kind = r.kind := rfl
@[simp] theorem withForm_bheN : (r.withForm g).bheN = g.code.bheN := rfl
@[simp] theorem withForm_seg : (r.withForm g).seg = r.seg := rfl
@[simp] theorem withForm_ifFlag : (r.withForm g).ifFlag = r.ifFlag := rfl
@[simp] theorem withForm_lock : (r.withForm g).lock = r.lock := rfl
@[simp] theorem withForm_wdata : (r.withForm g).wdata = r.wdata := rfl

end Sys2Proof.Machine
end

