-- ==== Sys2Proof/Laws/Operations.lean ====
section
/-! SUPPORT. For each shared operation one lemma that says what it can do: if it answers a next state, then
this. -/

namespace Sys2Proof.Machine

/-! Addresses and lanes. -/

/-- An odd address is its own odd-bank address. -/
theorem hiAddr_of_odd {a : Addr} (h : a0 a = true) : hiAddr a = a := by
  apply BitVec.eq_of_getLsbD_eq
  intro i hi
  by_cases h0 : i = 0
  · subst h0; simpa [hiAddr, a0] using h.symm
  · simp [hiAddr, h0, BitVec.getLsbD_one]

/-- An even address is its own even-bank address. -/
theorem loAddr_of_even {a : Addr} (h : a0 a = false) : loAddr a = a := by
  apply BitVec.eq_of_getLsbD_eq
  intro i hi
  by_cases h0 : i = 0
  · subst h0; simpa [loAddr, a0] using h.symm
  · simp only [loAddr, BitVec.getLsbD_and, BitVec.getLsbD_not, BitVec.getLsbD_one]
    simp [h0, hi]

/-- The odd-bank address is odd. -/
@[simp] theorem a0_hiAddr (a : Addr) : a0 (hiAddr a) = true := by simp [a0, hiAddr]

/-- The even-bank address is even. -/
@[simp] theorem a0_loAddr (a : Addr) : a0 (loAddr a) = false := by simp [a0, loAddr]

/-- At an even address the odd-bank byte is the next one (R65). -/
theorem hiAddr_of_even {a : Addr} (h : a0 a = false) : hiAddr a = a + 1 := by
  rw [BitVec.add_eq_or_of_and_eq_zero]
  · rfl
  · apply BitVec.eq_of_getLsbD_eq
    intro i hi
    by_cases h0 : i = 0
    · subst h0; simpa [a0] using h
    · simp [BitVec.getLsbD_one, h0]

@[simp] theorem withForm_addr_word (r : BusReq) : (r.withForm .word).addr = loAddr r.addr := rfl
@[simp] theorem withForm_addr_highByte (r : BusReq) : (r.withForm .highByte).addr = hiAddr r.addr := rfl
@[simp] theorem withForm_addr_lowByte (r : BusReq) : (r.withForm .lowByte).addr = loAddr r.addr := rfl
@[simp] theorem withForm_addr_noForm (r : BusReq) : (r.withForm .noForm).addr = hiAddr r.addr := rfl

/-- A request with a form's levels has that form (R140). -/
@[simp] theorem formOf_withForm (r : BusReq) (f : Form) :
    formOf (r.withForm f).bheN (r.withForm f).addr = f := by
  cases f <;> simp [formOf, Form.code, FormCode.form]

/-- The form is NONE exactly when neither lane is selected (R140, R141). -/
theorem formOf_eq_noForm (b : Level) (a : Addr) : formOf b a = .noForm ↔ b = true ∧ a0 a = true := by
  cases b <;> cases h : a0 a <;> simp [formOf, FormCode.form, h]

/-! LOCK. -/

/-- On a PASSIVE step neither the lock nor the prefix state changes (R200). -/
theorem lockAfter_passive {r : BusReq} (h : r.kind = .passive) (a b : Bool) :
    lockHeldAfter a r = a ∧ lockPrefixAfter b r = b ∧ lockLevel a r = !a := by
  simp [lockHeldAfter, lockPrefixAfter, lockLevel, h]

/-- On any other cycle the request's `lock` decides: the lock is held or not, LOCK# is low or high, the prefix
state stays or ends (R200). -/
theorem lockAfter_cycle {r : BusReq} (h : r.kind ≠ .passive) (a b : Bool) :
    lockHeldAfter a r = r.lock ∧ lockPrefixAfter b r = (b && r.lock) ∧ lockLevel a r = !r.lock := by
  simp [lockHeldAfter, lockPrefixAfter, lockLevel, h]

/-! The bus cycle. -/

/-- What a bus cycle can do (R161). -/
theorem busCycle_next {r : BusReq} {s t : State} (h : busCycle r s = .next t) :
    ∃ p, (r.lock && s.cfg.mode == .min) = false
      ∧ cyclePart r s = .ok p ∧ t = s.closeCycle r p := by
  unfold busCycle at h
  split at h
  · cases h
  · rename_i hl
    split at h
    · cases h
    · rename_i p hp
      exact ⟨p, by simpa using hl, hp, by injection h with h; exact h.symm⟩

/-- When a bus cycle completes (R161). -/
theorem busCycle_of_part {r : BusReq} {s : State} {p : CyclePart}
    (hl : (r.lock && s.cfg.mode == .min) = false)
    (hp : cyclePart r s = .ok p) :
    busCycle r s = .next (s.closeCycle r p) := by
  unfold busCycle
  rw [if_neg (by rw [hl]; exact Bool.false_ne_true), hp]

/-- INTA's part (R162). -/
theorem intaPart_ok {r : BusReq} {s : State} {p : CyclePart} (h : intaPart r s = .ok p) :
    r.seg = .csNone ∧ p = { address := some ⟨Config.cycleAddress s.draws, Config.cycleBheN s.draws⟩
                            status := some (statusPhase r.ifFlag Seg.csNone.code)
                            lanes := ⟨none, some (Config.intaByte s.draws)⟩
                            rdata := Lanes.rdata ⟨none, some (Config.intaByte s.draws)⟩
                            mem := s.mem, queue := s.queue } := by
  unfold intaPart at h
  split at h
  · cases h
  · rename_i ht
    exact ⟨by simpa [tagAccepted] using ht, by injection h with h; exact h.symm⟩

/-- IORD's part (R163). -/
theorem iordPart_ok {r : BusReq} {s : State} {p : CyclePart} (h : iordPart r s = .ok p) :
    r.seg = .csNone ∧ portInRange s.cfg r.addr = true ∧ formOf r.bheN r.addr ≠ .noForm
      ∧ p = { address := some (addressPhase r), status := some (statusPhase r.ifFlag r.seg.code)
              lanes := readLanes (ioSpace s.draws) r.addr r.bheN
              rdata := (readLanes (ioSpace s.draws) r.addr r.bheN).rdata
              mem := s.mem, queue := s.queue } := by
  unfold iordPart at h
  split at h
  · cases h
  · rename_i ht
    split at h
    · cases h
    · rename_i hp
      split at h
      · cases h
      · rename_i hf
        exact ⟨by simpa [tagAccepted] using ht, by simpa using hp, hf, by injection h with h; exact h.symm⟩

/-- IOWR's part (R164). -/
theorem iowrPart_ok {r : BusReq} {s : State} {p : CyclePart} (h : iowrPart r s = .ok p) :
    r.seg = .csNone ∧ portInRange s.cfg r.addr = true ∧ formOf r.bheN r.addr ≠ .noForm
      ∧ p = { address := some (addressPhase r), status := some (statusPhase r.ifFlag r.seg.code)
              lanes := drivenLanes r.wdata, rdata := 0, mem := s.mem, queue := s.queue } := by
  unfold iowrPart at h
  split at h
  · cases h
  · rename_i ht
    split at h
    · cases h
    · rename_i hp
      split at h
      · cases h
      · rename_i hf
        exact ⟨by simpa [tagAccepted] using ht, by simpa using hp, hf, by injection h with h; exact h.symm⟩

/-- HALT's part (R165). -/
theorem haltPart_ok {r : BusReq} {s : State} {p : CyclePart} (h : haltPart r s = .ok p) :
    p = { address := some ⟨Config.cycleAddress s.draws, Config.cycleBheN s.draws⟩
          status := some (statusPhase r.ifFlag ⟨Config.haltS4 s.draws, Config.haltS3 s.draws⟩)
          lanes := ⟨none, none⟩, rdata := 0, mem := s.mem, queue := s.queue } := by
  injection h with h
  exact h.symm

/-- FETCH's part (R166): the queue grows in maximum mode only, and never past its depth. -/
theorem fetchPart_ok {r : BusReq} {s : State} {p : CyclePart} (h : fetchPart r s = .ok p) :
    r.seg = .csNone ∧ formOf r.bheN r.addr ≠ .noForm
      ∧ p = { address := some (addressPhase r), status := some (statusPhase r.ifFlag r.seg.code)
              lanes := readLanes s.memSpace r.addr r.bheN
              rdata := (readLanes s.memSpace r.addr r.bheN).rdata
              mem := s.mem, queue := p.queue }
      ∧ ((s.cfg.mode = .min ∧ p.queue = s.queue)
        ∨ (s.cfg.mode = .max ∧ p.queue = s.queue ++ (readLanes s.memSpace r.addr r.bheN).fetched
            ∧ s.queue.length + (readLanes s.memSpace r.addr r.bheN).fetched.length ≤ s.cfg.queueDepth)) := by
  unfold fetchPart at h
  split at h
  · cases h
  · rename_i ht
    split at h
    · cases h
    · rename_i hf
      refine ⟨by simpa [tagAccepted] using ht, hf, ?_⟩
      dsimp only at h
      split at h
      · rename_i hm
        injection h with h
        subst h
        exact ⟨rfl, .inl ⟨hm, rfl⟩⟩
      · rename_i hm
        split at h
        · cases h
        · rename_i hq
          injection h with h
          subst h
          exact ⟨rfl, .inr ⟨hm, rfl, by omega⟩⟩

/-- MEMRD's part (R167). -/
theorem memrdPart_ok {r : BusReq} {s : State} {p : CyclePart} (h : memrdPart r s = .ok p) :
    formOf r.bheN r.addr ≠ .noForm
      ∧ p = { address := some (addressPhase r), status := some (statusPhase r.ifFlag r.seg.code)
              lanes := readLanes s.memSpace r.addr r.bheN
              rdata := (readLanes s.memSpace r.addr r.bheN).rdata
              mem := s.mem, queue := s.queue } := by
  unfold memrdPart at h
  split at h
  · cases h
  · split at h
    · cases h
    · rename_i hf
      exact ⟨hf, by injection h with h; exact h.symm⟩

/-- MEMWR's part (R168). -/
theorem memwrPart_ok {r : BusReq} {s : State} {p : CyclePart} (h : memwrPart r s = .ok p) :
    formOf r.bheN r.addr ≠ .noForm
      ∧ p = { address := some (addressPhase r), status := some (statusPhase r.ifFlag r.seg.code)
              lanes := drivenLanes r.wdata, rdata := 0
              mem := writeLanes s.mem r.addr r.bheN r.wdata, queue := s.queue } := by
  unfold memwrPart at h
  split at h
  · cases h
  · split at h
    · cases h
    · rename_i hf
      exact ⟨hf, by injection h with h; exact h.symm⟩

/-- PASSIVE's part (R169). -/
theorem passivePart_ok {s : State} {p : CyclePart} (h : passivePart s = .ok p) :
    p = { address := none, status := none, lanes := ⟨none, none⟩, rdata := 0, mem := s.mem, queue := s.queue } := by
  injection h with h
  exact h.symm

/-- What a cycle does to memory: a MEMWR with a selected lane stores, every other cycle leaves it. -/
theorem cyclePart_mem {r : BusReq} {s : State} {p : CyclePart} (h : cyclePart r s = .ok p) :
    (r.kind = .memwr ∧ formOf r.bheN r.addr ≠ .noForm ∧ p.mem = writeLanes s.mem r.addr r.bheN r.wdata)
      ∨ (r.kind ≠ .memwr ∧ p.mem = s.mem) := by
  unfold cyclePart at h
  split at h <;> rename_i hk
  · exact .inr ⟨by rw [hk]; decide, by rw [(intaPart_ok h).2]⟩
  · exact .inr ⟨by rw [hk]; decide, by rw [(iordPart_ok h).2.2.2]⟩
  · exact .inr ⟨by rw [hk]; decide, by rw [(iowrPart_ok h).2.2.2]⟩
  · exact .inr ⟨by rw [hk]; decide, by rw [haltPart_ok h]⟩
  · exact .inr ⟨by rw [hk]; decide, by rw [(fetchPart_ok h).2.2.1]⟩
  · exact .inr ⟨by rw [hk]; decide, by rw [(memrdPart_ok h).2]⟩
  · exact .inl ⟨hk, (memwrPart_ok h).1, by rw [(memwrPart_ok h).2]⟩
  · exact .inr ⟨by rw [hk]; decide, by rw [passivePart_ok h]⟩

/-! The other operations. -/

/-- What a queue operation can do (R210). -/
theorem queueOp_next {op : QOp} {s t : State} (h : queueOp op s = .next t) :
    s.cfg.mode = .max ∧ ∃ q b, queueEffect op s.queue s.taken = .ok (q, b)
      ∧ t = { s with queue := q, taken := b, history := s.history ++ [.queueOp op] } := by
  unfold queueOp at h
  split at h
  · cases h
  · rename_i hm
    split at h
    · cases h
    · rename_i q b hq
      exact ⟨hm, q, b, hq, by injection h with h; exact h.symm⟩

/-- What the LOCK: prefix can do (R201). -/
theorem lockPrefixOp_next {s t : State} (h : lockPrefixOp s = .next t) :
    s.cfg.mode = .max ∧ t = { s with lockPrefix := true, req := s.req.withLock true } := by
  unfold lockPrefixOp at h
  split at h
  · cases h
  · rename_i hm
    exact ⟨hm, by injection h with h; exact h.symm⟩

/-- What LOCK_END can do (R200). -/
theorem lockEnd_next {s t : State} (h : lockEnd s = .next t) :
    s.cfg.mode = .max
      ∧ t = { s with
        lockHeld := false, lockPrefix := false, req := s.req.withLock false
        history := s.history ++ [.lockEnd] } := by
  unfold lockEnd at h
  split at h
  · cases h
  · rename_i hm
    exact ⟨hm, by injection h with h; exact h.symm⟩

/-- What a cycle of OTHER can do (R244). -/
theorem otherCycle_next {r : OtherReq} {s t : State} (h : otherCycle r s = .next t) :
    formOf r.bheN r.addr ≠ .noForm
      ∧ ((r.isWrite = true ∧ t = { s with
            mem := writeLanes s.mem r.addr r.bheN r.wdata
            history := s.history
              ++ [.other r.addr r.bheN true (some (hiByte r.wdata)) (some (loByte r.wdata))] })
        ∨ (r.isWrite = false ∧ t = { s with
            history := s.history ++ [.other r.addr r.bheN false
              (readLanes s.memSpace r.addr r.bheN).hi (readLanes s.memSpace r.addr r.bheN).lo] })) := by
  unfold otherCycle at h
  split at h
  · cases h
  · rename_i hf
    refine ⟨hf, ?_⟩
    injection h with h
    subst h
    cases hw : r.isWrite
    · exact .inr ⟨rfl, by simp⟩
    · exact .inl ⟨rfl, by simp [drivenLanes]⟩

/-- When it is OTHER's turn and it can use it: it is enabled (R202, R244). -/
theorem otherTurn_some {s s' : State} {r : OtherReq} (h : otherTurn s = some (r, s')) :
    s.otherEnabled = true ∧ ∃ turns rest, s.turns = .other :: turns ∧ s.otherPending = r :: rest
      ∧ s' = { s with turns := turns, otherPending := rest } := by
  unfold otherTurn at h
  split at h
  · rename_i turns r' rest ht hp
    split at h
    · rename_i he
      injection h with h
      injection h with h1 h2
      subst h1
      exact ⟨he, turns, rest, ht, hp, h2.symm⟩
    · cases h
  · cases h

/-- An instruction's meaning is a bus cycle, a queue operation or the LOCK: prefix. -/
theorem exec_next {i : Instr} {s t : State} (h : exec i s = .next t) :
    (∃ r, busCycle r s = .next t) ∨ (∃ op, queueOp op s = .next t) ∨ lockPrefixOp s = .next t := by
  cases i
  case lock => exact .inr (.inr h)
  case qIdle => exact .inr (.inl ⟨.qIdle, h⟩)
  case qFirst => exact .inr (.inl ⟨.qFirst, h⟩)
  case qEmpty => exact .inr (.inl ⟨.qEmpty, h⟩)
  case qSubseq => exact .inr (.inl ⟨.qSubseq, h⟩)
  all_goals exact .inl ⟨_, h⟩

/-- Two states that differ at most in what the environment hands over: the current request, its pending inputs
and the turns. -/
structure SameMachine (s s' : State) : Prop where
  cfg : s'.cfg = s.cfg
  mem : s'.mem = s.mem
  queue : s'.queue = s.queue
  lockHeld : s'.lockHeld = s.lockHeld
  history : s'.history = s.history
  rdata : s'.rdata = s.rdata
  taken : s'.taken = s.taken
  result : s'.result = s.result
  half : s'.half = s.half
  lockPrefix : s'.lockPrefix = s.lockPrefix
  otherPending : s'.otherPending = s.otherPending
  draws : s'.draws = s.draws

/-- What taking up an access primitive can do (R72): refuse it, or present its first request. -/
theorem presentAccess_cases (x : Access) (rest : List EnvInput) (s : State) :
    (∃ e, x.first s.cfg (Config.idleLane s.draws) = .error e ∧ presentAccess x rest s = .refused e)
      ∨ ∃ r, x.first s.cfg (Config.idleLane s.draws) = .ok r
        ∧ presentAccess x rest s
          = presentRequest r x.finishFirst (if x.oddWord then .accessRest x :: rest else rest) s := by
  unfold presentAccess
  cases x.first s.cfg (Config.idleLane s.draws) with
  | error e => exact .inl ⟨e, rfl, rfl⟩
  | ok r => exact .inr ⟨r, rfl, rfl⟩

/-- What taking up the next input can do: a code in a state that differs only in what the environment hands over,
LOCK_END in such a state, or a refusal. -/
theorem fetchInput_cases (s : State) :
    (∃ w f s', fetchInput s = .code w f s' ∧ SameMachine s s')
      ∨ (∃ s', fetchInput s = .lockEnd s' ∧ SameMachine s s')
      ∨ ∃ e, fetchInput s = .refused e := by
  have same : ∀ r p, SameMachine s { s with req := r, pending := p } :=
    fun _ _ => ⟨rfl, rfl, rfl, rfl, rfl, rfl, rfl, rfl, rfl, rfl, rfl, rfl⟩
  have code : ∀ x f p, fetchInput s = presentRequest x f p s →
      ∃ w f s', fetchInput s = .code w f s' ∧ SameMachine s s' := fun x f p h => ⟨_, f, _, h, same x p⟩
  have acc : ∀ x p, fetchInput s = presentAccess x p s →
      (∃ w f s', fetchInput s = .code w f s' ∧ SameMachine s s') ∨ ∃ e, fetchInput s = .refused e := by
    intro x p h
    rcases presentAccess_cases x p s with ⟨e, -, he⟩ | ⟨r, -, hr⟩
    · exact .inr ⟨e, h.trans he⟩
    · exact .inl (code _ _ _ (h.trans hr))
  cases hp : s.pending with
  | nil => exact .inl (code _ _ _ (by simp only [fetchInput, hp]; rfl))
  | cons x rest =>
    cases x with
    | cycle r => exact .inl (code _ _ _ (by simp only [fetchInput, hp]; rfl))
    | instrCycle r => exact .inl (code _ _ _ (by simp only [fetchInput, hp]; rfl))
    | code w => exact .inl ⟨w, _, _, by simp only [fetchInput, hp]; rfl, same s.req rest⟩
    | lockEnd => exact .inr (.inl ⟨_, by simp only [fetchInput, hp], same s.req rest⟩)
    | access a => exact (acc a rest (by simp only [fetchInput, hp])).imp id .inr
    | instrAccess a => exact (acc (a.withLock s.lockPrefix) rest (by simp only [fetchInput, hp])).imp id .inr
    | accessRest a => exact .inl (code _ _ _ (by simp only [fetchInput, hp]; rfl))
    | acknowledge r => exact .inl (code _ _ _ (by simp only [fetchInput, hp]; rfl))

/-- Taking up a code changes only what the environment hands over. -/
theorem fetchInput_code {s s' : State} {w : CodeWord} {f : Finish} (h : fetchInput s = .code w f s') :
    SameMachine s s' := by
  rcases fetchInput_cases s with ⟨w', f', u, hu, hs⟩ | ⟨u, hu, -⟩ | ⟨e, he⟩
  · rw [hu] at h
    injection h with _ _ h
    exact h ▸ hs
  · rw [hu] at h; cases h
  · rw [he] at h; cases h

/-- Taking up LOCK_END changes only what the environment hands over. -/
theorem fetchInput_lockEnd {s s' : State} (h : fetchInput s = .lockEnd s') : SameMachine s s' := by
  rcases fetchInput_cases s with ⟨w', f', u, hu, -⟩ | ⟨u, hu, hs⟩ | ⟨e, he⟩
  · rw [hu] at h; cases h
  · rw [hu] at h
    injection h with h
    exact h ▸ hs
  · rw [he] at h; cases h

/-- What a step can do: a cycle of OTHER at its turn, LOCK_END, or the meaning of a decoded instruction. -/
theorem step_next {s t : State} (h : step s = .next t) :
    (∃ r s', otherTurn s = some (r, s') ∧ otherCycle r s' = .next t)
      ∨ (∃ s', SameMachine s s' ∧ lockEnd s' = .next t)
      ∨ (∃ i f s' u, SameMachine s s' ∧ exec i s' = .next u ∧ t = finish f u) := by
  unfold step at h
  split at h
  · rename_i r s' ho
    exact .inl ⟨r, s', ho, h⟩
  · refine .inr ?_
    unfold biuStep at h
    split at h
    · cases h
    · rename_i s' hf
      have hs := fetchInput_lockEnd hf
      exact .inl ⟨s', ⟨hs.1, hs.2, hs.3, hs.4, hs.5, hs.6, hs.7, hs.8, hs.9, hs.10, hs.11, hs.12⟩, h⟩
    · rename_i w f s' hf
      have hs := fetchInput_code hf
      split at h
      · cases h
      · rename_i i hi
        refine .inr ⟨i, f, s', ?_⟩
        cases he : exec i s' with
        | next u =>
          rw [he] at h
          injection h with h
          exact ⟨u, ⟨hs.1, hs.2, hs.3, hs.4, hs.5, hs.6, hs.7, hs.8, hs.9, hs.10, hs.11, hs.12⟩, rfl, h.symm⟩
        | fault r => cases r
        | refused r => rw [he] at h; cases h

end Sys2Proof.Machine
end

