-- ==== Sys2Proof/Laws/PerInstr.lean ====
section
/-! SUPPORT. The per-instruction law: the decoder reads each instruction back from its code word, which is well
formed (30_encoding.md R107). -/

namespace Sys2Proof.Laws

/-- The code word of the instruction is well formed and decodes to it. -/
def RoundTrip.Statement (i : Instr) : Prop := (encode i).wf = true ∧ decode (encode i) = .ok i

theorem RoundTrip.inta : RoundTrip.Statement .inta := ⟨rfl, rfl⟩
theorem RoundTrip.iord : RoundTrip.Statement .iord := ⟨rfl, rfl⟩
theorem RoundTrip.iowr : RoundTrip.Statement .iowr := ⟨rfl, rfl⟩
theorem RoundTrip.halt : RoundTrip.Statement .halt := ⟨rfl, rfl⟩
theorem RoundTrip.fetch : RoundTrip.Statement .fetch := ⟨rfl, rfl⟩
theorem RoundTrip.memrd : RoundTrip.Statement .memrd := ⟨rfl, rfl⟩
theorem RoundTrip.memwr : RoundTrip.Statement .memwr := ⟨rfl, rfl⟩
theorem RoundTrip.passive : RoundTrip.Statement .passive := ⟨rfl, rfl⟩
theorem RoundTrip.es : RoundTrip.Statement .es := ⟨rfl, rfl⟩
theorem RoundTrip.ss : RoundTrip.Statement .ss := ⟨rfl, rfl⟩
theorem RoundTrip.csNone : RoundTrip.Statement .csNone := ⟨rfl, rfl⟩
theorem RoundTrip.ds : RoundTrip.Statement .ds := ⟨rfl, rfl⟩
theorem RoundTrip.word : RoundTrip.Statement .word := ⟨rfl, rfl⟩
theorem RoundTrip.highByte : RoundTrip.Statement .highByte := ⟨rfl, rfl⟩
theorem RoundTrip.lowByte : RoundTrip.Statement .lowByte := ⟨rfl, rfl⟩
theorem RoundTrip.noForm : RoundTrip.Statement .noForm := ⟨rfl, rfl⟩
theorem RoundTrip.qIdle : RoundTrip.Statement .qIdle := ⟨rfl, rfl⟩
theorem RoundTrip.qFirst : RoundTrip.Statement .qFirst := ⟨rfl, rfl⟩
theorem RoundTrip.qEmpty : RoundTrip.Statement .qEmpty := ⟨rfl, rfl⟩
theorem RoundTrip.qSubseq : RoundTrip.Statement .qSubseq := ⟨rfl, rfl⟩
theorem RoundTrip.lock : RoundTrip.Statement .lock := ⟨by decide, by decide⟩

end Sys2Proof.Laws
end

