-- ==== Sys2Proof/Machine/Package.lean ====
section
/-! DEFINITION. The package: the signals the spec names (10_state.md R40, R56, R57), the 40 pins (R58), each
signal's direction and active level (R40), and which signals a mode has (R241). Wholly general knowledge but
for what R40's last column quotes (PRESUMED, log 31); no step reads any of it. -/

namespace Sys2Proof.Machine

/-- The signals of R40, R56 and R57. -/
inductive Signal where
  /-- AD0..AD15, multiplexed address and data (R29, R56). -/
  | ad (n : Fin 16)
  | a16S3 | a17S4 | a18S5 | a19S6
  /-- BHE#/S7 (R28). -/
  | bheS7
  | gnd | vcc
  | nmi | intr | clk | reset | ready | test | rd | mnMx
  /-- The minimum-mode meanings of pins 24 to 31 (R57). -/
  | inta | ale | den | dtR | mIo | wr | hlda | hold
  /-- The maximum-mode meanings of pins 24 to 31 (R57). -/
  | qs1 | qs0 | s0 | s1 | s2 | lock | rqGt1 | rqGt0
deriving DecidableEq, Repr

/-- The eight pins whose meaning depends on the mode (R57). -/
def modePin : Mode → Nat → Option Signal
  | .min, 24 => some .inta
  | .min, 25 => some .ale
  | .min, 26 => some .den
  | .min, 27 => some .dtR
  | .min, 28 => some .mIo
  | .min, 29 => some .wr
  | .min, 30 => some .hlda
  | .min, 31 => some .hold
  | .max, 24 => some .qs1
  | .max, 25 => some .qs0
  | .max, 26 => some .s0
  | .max, 27 => some .s1
  | .max, 28 => some .s2
  | .max, 29 => some .lock
  | .max, 30 => some .rqGt1
  | .max, 31 => some .rqGt0
  | _, _ => none

/-- The pins both modes share (R58). -/
def commonPin : Nat → Option Signal
  | 1 => some .gnd
  | 2 => some (.ad 14)
  | 3 => some (.ad 13)
  | 4 => some (.ad 12)
  | 5 => some (.ad 11)
  | 6 => some (.ad 10)
  | 7 => some (.ad 9)
  | 8 => some (.ad 8)
  | 9 => some (.ad 7)
  | 10 => some (.ad 6)
  | 11 => some (.ad 5)
  | 12 => some (.ad 4)
  | 13 => some (.ad 3)
  | 14 => some (.ad 2)
  | 15 => some (.ad 1)
  | 16 => some (.ad 0)
  | 17 => some .nmi
  | 18 => some .intr
  | 19 => some .clk
  | 20 => some .gnd
  | 21 => some .reset
  | 22 => some .ready
  | 23 => some .test
  | 32 => some .rd
  | 33 => some .mnMx
  | 34 => some .bheS7
  | 35 => some .a19S6
  | 36 => some .a18S5
  | 37 => some .a17S4
  | 38 => some .a16S3
  | 39 => some (.ad 15)
  | 40 => some .vcc
  | _ => none

/-- The signal of a pin of the 40-pin package in a mode (R58). -/
def pinSignal (m : Mode) (pin : Nat) : Option Signal := (modePin m pin).orElse fun _ => commonPin pin

/-- A mode has a signal when one of the 40 pins carries it (R241, R57). -/
def Signal.present (m : Mode) (x : Signal) : Bool :=
  (List.range 41).any fun pin => pinSignal m pin == some x

/-- The directions of R40, R56 and R57. -/
inductive Direction where
  | out | input | both | supply
deriving DecidableEq, Repr

/-- The direction of a signal. -/
def Signal.direction : Signal → Direction
  | .ad _ => .both
  | .a16S3 | .a17S4 | .a18S5 | .a19S6 | .bheS7 => .out
  | .gnd | .vcc => .supply
  | .nmi | .intr | .clk | .reset | .ready | .test | .mnMx | .hold => .input
  | .rd | .inta | .ale | .den | .dtR | .mIo | .wr | .hlda => .out
  | .qs1 | .qs0 | .s0 | .s1 | .s2 | .lock => .out
  | .rqGt1 | .rqGt0 => .both

/-- The signals active at level 0 (R8, R40, R56). M/IO#, DT/R# and MN/MX#, each of whose levels has a meaning of
its own, count as not active low although they are written with `#` (DESIGN CHOICE, log 31). -/
def Signal.activeLow : Signal → Bool
  | .bheS7 | .rd | .wr | .den | .inta | .lock | .s0 | .s1 | .s2 | .test | .rqGt0 | .rqGt1 => true
  | .ad _ | .a16S3 | .a17S4 | .a18S5 | .a19S6 | .gnd | .vcc | .nmi | .intr | .clk | .reset | .ready | .mnMx => false
  | .ale | .dtR | .mIo | .hlda | .hold | .qs1 | .qs0 => false

/-- The five shared pins in the address phase of a record: A19..A16 and BHE# (R26, R27, R28). -/
def sharedPinsAddress (p : AddressPhase) : List Level :=
  [p.bheN, p.a.getLsbD 19, p.a.getLsbD 18, p.a.getLsbD 17, p.a.getLsbD 16]

/-- The same five pins in the status phase: S7 and S6..S3 (R26, R27, R28). -/
def sharedPinsStatus (p : StatusPhase) : List Level := [p.s7, p.s6, p.s5, p.s4, p.s3]

end Sys2Proof.Machine
end

