-- ==== Sys2Proof/Machine/Trace.lean ====
section
/-! DEFINITION. The trace notation of 30_encoding.md R112: a request, a queue operation, LOCK_END or a cycle of
the second master as one line of text. -/

namespace Sys2Proof.Machine

/-- One hexadecimal digit, by its four bits. -/
def hexDigit (d : Nat) : Char :=
  match d % 16 with
  | 0 => '0' | 1 => '1' | 2 => '2' | 3 => '3' | 4 => '4' | 5 => '5' | 6 => '6' | 7 => '7'
  | 8 => '8' | 9 => '9' | 10 => 'A' | 11 => 'B' | 12 => 'C' | 13 => 'D' | 14 => 'E' | _ => 'F'

/-- `n` hexadecimal digits of a number, the most significant first. -/
def hexDigits : Nat → Nat → List Char
  | 0, _ => []
  | n + 1, v => hexDigit (v >>> (4 * n)) :: hexDigits n v

/-- `<KIND>`. -/
def kindTrace : Kind → List Char
  | .inta => ['I', 'N', 'T', 'A']
  | .iord => ['I', 'O', 'R', 'D']
  | .iowr => ['I', 'O', 'W', 'R']
  | .halt => ['H', 'A', 'L', 'T']
  | .fetch => ['F', 'E', 'T', 'C', 'H']
  | .memrd => ['M', 'E', 'M', 'R', 'D']
  | .memwr => ['M', 'E', 'M', 'W', 'R']
  | .passive => ['P', 'A', 'S', 'S', 'I', 'V', 'E']

/-- `<FORM>`: `W`, `H` or `L`; NONE has no letter. -/
def traceLetter : Form → Option Char
  | .word => some 'W'
  | .highByte => some 'H'
  | .lowByte => some 'L'
  | .noForm => none

/-- `<SEG>`. -/
def segTrace : Seg → List Char
  | .es => ['E', 'S']
  | .ss => ['S', 'S']
  | .csNone => ['C', 'S', '_', 'N', 'O', 'N', 'E']
  | .ds => ['D', 'S']

/-- `<QOp>`. -/
def queueOpTrace : QOp → List Char
  | .qIdle => ['Q', '_', 'I', 'D', 'L', 'E']
  | .qFirst => ['Q', '_', 'F', 'I', 'R', 'S', 'T']
  | .qEmpty => ['Q', '_', 'E', 'M', 'P', 'T', 'Y']
  | .qSubseq => ['Q', '_', 'S', 'U', 'B', 'S', 'E', 'Q']

/-- `<data hex>h` with `= ` before it: the byte of the form's lane, or the word. -/
def dataTrace (f : Form) (d : Word16) : List Char :=
  match f with
  | .word => [' ', '=', ' '] ++ hexDigits 4 d.toNat ++ ['h']
  | .highByte => [' ', '=', ' '] ++ hexDigits 2 (hiByte d).toNat ++ ['h']
  | .lowByte => [' ', '=', ' '] ++ hexDigits 2 (loByte d).toNat ++ ['h']
  | .noForm => []

/-- ` IF=<0|1> [LOCK]`. -/
def flagTrace (r : BusReq) : List Char :=
  [' ', 'I', 'F', '=', if r.ifFlag then '1' else '0'] ++ (if r.lock then [' ', 'L', 'O', 'C', 'K'] else [])

/-- The line of a request that moves data: `<KIND>.<FORM> <SEG>:<addr>h [= <data>] IF=<x> [LOCK]`. -/
def transferTrace (r : BusReq) (data : Option Word16) : Option (List Char) :=
  match traceLetter (formOf r.bheN r.addr) with
  | none => none
  | some c =>
    some (kindTrace r.kind ++ ['.', c, ' '] ++ segTrace r.seg ++ [':'] ++ hexDigits 5 r.addr.toNat ++ ['h']
      ++ (match data with | some d => dataTrace (formOf r.bheN r.addr) d | none => []) ++ flagTrace r)

/-- The line of a request, with the data of a read where it is known. A data-moving request with form NONE
has no line: it is refused (R149). -/
def requestTrace (r : BusReq) (readData : Option Word16) : Option (List Char) :=
  match r.kind with
  | .inta => some (kindTrace .inta ++ flagTrace r)
  | .halt => some (kindTrace .halt ++ flagTrace r)
  | .passive => some (kindTrace .passive)
  | .iowr => transferTrace r (some r.wdata)
  | .memwr => transferTrace r (some r.wdata)
  | .iord => transferTrace r readData
  | .fetch => transferTrace r readData
  | .memrd => transferTrace r readData

/-- `Q <QOp>`. -/
def queueTrace (op : QOp) : List Char := ['Q', ' '] ++ queueOpTrace op

/-- `LOCK_END`. -/
def lockEndTrace : List Char := ['L', 'O', 'C', 'K', '_', 'E', 'N', 'D']

/-- `OTHER ...`: "written like a MEMRD or MEMWR without `IF`"; P2 and P4 write it without a segment too. -/
def otherTrace (r : OtherReq) : Option (List Char) :=
  match traceLetter (formOf r.bheN r.addr) with
  | none => none
  | some c =>
    some (['O', 'T', 'H', 'E', 'R', ' '] ++ kindTrace (if r.isWrite then .memwr else .memrd) ++ ['.', c, ' ']
      ++ hexDigits 5 r.addr.toNat ++ ['h']
      ++ (if r.isWrite then dataTrace (formOf r.bheN r.addr) r.wdata else []))

end Sys2Proof.Machine
end

