-- ==== Sys2Proof/Tests/Slice0.lean ====
section
/-! SUPPORT. Tests: ill-formed terms the checks refuse, code words written out from 30_encoding.md R107, one
step of each instruction with the values of 95_test_vectors.md, and for each statement with hypotheses a state
that meets them. -/

namespace Sys2Proof.Tests

open Machine Stated

/-! Helpers: small states. -/

/-- A configuration with the defaults of R6, in the given mode. -/
def cfgOf (m : Mode) : Cfg := { resetCfg with mode := m }

/-- A request; the kind is a MEMRD's unless changed. -/
def reqOf (k : Kind) (a : Addr) (bheN : Level) (t : Seg) (i : Level) (w : Word16) : BusReq :=
  { kind := k, addr := a, bheN := bheN, seg := t, ifFlag := i, lock := false, wdata := w }

/-- The memory V23 to V27 start from. -/
def vMem : Memory := [(0x12344, 0x78), (0x12345, 0x56), (0x12346, 0x34), (0x12347, 0x12), (0xFFFFE, 0xAA), (0xFFFFF, 0x55)]

/-- The initial state with a request on the pins and V23's memory. -/
def stOf (m : Mode) (r : BusReq) : State := { State.initial (cfgOf m) with mem := vMem, req := r }

/-- The initial state with inputs handed over and V23's memory. -/
def inOf (m : Mode) (p : List EnvInput) : State := { State.initial (cfgOf m) with mem := vMem, pending := p }

/-- The next state of an outcome. -/
def nextOf : Host.Outcome State Fault Refusal → Option State
  | .next t => some t
  | .fault _ => none
  | .refused _ => none

/-- Why an outcome was refused. -/
def refusalOf : Host.Outcome State Fault Refusal → Option Refusal
  | .next _ => none
  | .fault _ => none
  | .refused e => some e

/-- The record an outcome adds. -/
def recordOf (o : Host.Outcome State Fault Refusal) : Option PinRecord := (nextOf o).bind lastRecord

/-- `S2# S1# S0#`, `ST_HI` and LOCK# of a maximum-mode record. -/
def codesOf (o : Host.Outcome State Fault Refusal) : Option (BitVec 3 × Option (BitVec 5) × Level) :=
  (recordOf o).bind fun p =>
    match p.typePins with
    | .max q => some (q.stLo, p.status.map StatusPhase.stHi, q.lockN)
    | .min _ => none

/-- The two lanes of the record. -/
def lanesOf (o : Host.Outcome State Fault Refusal) : Option (Option Byte × Option Byte) :=
  (recordOf o).map fun p => (p.dHi, p.dLo)

/-- A primitive writing BEEFh, or reading. -/
def splitAccess (k : AccessKind) (a : Addr) (wide : Bool) (t : Seg) : Access :=
  { kind := k, addr := a, wide := wide, wdata := 0xBEEF, seg := t, ifFlag := false, lock := false }

/-- V23's word read, and the request at the odd address. -/
def rdEven : BusReq := reqOf .memrd 0x12344 false .ds true 0xABCD
def rdOdd : BusReq := reqOf .memrd 0x12345 false .ds true 0xEF00

/-! Well-formedness: one ill-formed term for each check. -/

/-- R109, C1: the four-digit "0010" is no code of S2# S1# S0#. -/
theorem test_wf_refuses_wrong_width : (⟨.s2s1s0, [false, false, true, false]⟩ : CodeWord).widthOk = false := by decide

/-- R106: F1h is not the prefix byte. -/
theorem test_wf_refuses_other_prefix_byte :
    (⟨.prefixByte, [true, true, true, true, false, false, false, true]⟩ : CodeWord).wf = false := by decide

/-- D8: `IO_ADDR_BITS` is 1 to 20. -/
theorem test_wf_refuses_io_width :
    ({ resetCfg with ioAddrBits := 0 } : Cfg).ioAddrBitsOk = false
      ∧ ({ resetCfg with ioAddrBits := 21 } : Cfg).ioAddrBitsOk = false
      ∧ ({ resetCfg with ioAddrBits := 20 } : Cfg).wf = true := by decide

/-- D12: a whole-word FETCH must fit in an empty queue. -/
theorem test_wf_refuses_queue_depth : ({ resetCfg with queueDepth := 1 } : Cfg).queueDepthOk = false := by decide

/-- D20: an acknowledge has a cycle. -/
theorem test_wf_refuses_no_inta : ({ resetCfg with intaCycles := 0 } : Cfg).intaCyclesOk = false := by decide

/-! Decoding: the codes as V39 and V1, V2, V3, V5 print them. -/

theorem test_decode_cycle_types :
    decode ⟨.s2s1s0, [false, false, false]⟩ = .ok .inta ∧ decode ⟨.s2s1s0, [false, false, true]⟩ = .ok .iord
      ∧ decode ⟨.s2s1s0, [false, true, false]⟩ = .ok .iowr ∧ decode ⟨.s2s1s0, [false, true, true]⟩ = .ok .halt
      ∧ decode ⟨.s2s1s0, [true, false, false]⟩ = .ok .fetch ∧ decode ⟨.s2s1s0, [true, false, true]⟩ = .ok .memrd
      ∧ decode ⟨.s2s1s0, [true, true, false]⟩ = .ok .memwr
      ∧ decode ⟨.s2s1s0, [true, true, true]⟩ = .ok .passive := ⟨rfl, rfl, rfl, rfl, rfl, rfl, rfl, rfl⟩

theorem test_decode_segment_tags :
    decode ⟨.s4s3, [false, false]⟩ = .ok .es ∧ decode ⟨.s4s3, [false, true]⟩ = .ok .ss
      ∧ decode ⟨.s4s3, [true, false]⟩ = .ok .csNone ∧ decode ⟨.s4s3, [true, true]⟩ = .ok .ds := ⟨rfl, rfl, rfl, rfl⟩

theorem test_decode_transfer_forms :
    decode ⟨.bhea0, [false, false]⟩ = .ok .word ∧ decode ⟨.bhea0, [false, true]⟩ = .ok .highByte
      ∧ decode ⟨.bhea0, [true, false]⟩ = .ok .lowByte
      ∧ decode ⟨.bhea0, [true, true]⟩ = .ok .noForm := ⟨rfl, rfl, rfl, rfl⟩

theorem test_decode_queue_operations :
    decode ⟨.qs1qs0, [false, false]⟩ = .ok .qIdle ∧ decode ⟨.qs1qs0, [false, true]⟩ = .ok .qFirst
      ∧ decode ⟨.qs1qs0, [true, false]⟩ = .ok .qEmpty
      ∧ decode ⟨.qs1qs0, [true, true]⟩ = .ok .qSubseq := ⟨rfl, rfl, rfl, rfl⟩

theorem test_decode_lock :
    decode ⟨.prefixByte, [true, true, true, true, false, false, false, false]⟩ = .ok .lock := by decide

/-- R109: the misprint "0010" is refused by name. -/
theorem test_decode_refuses_misprint :
    decode ⟨.s2s1s0, [false, false, true, false]⟩ = .error (.wrongWidth .s2s1s0 4) := rfl

theorem test_decode_table_words :
    decodeTableWord 8 5 = some .memrd ∧ decodeTableWord 8 240 = some .lock ∧ decodeTableWord 8 241 = none := by decide

/-- R113: every row of the table is hit by its own value, and by no other value of its format. -/
theorem test_table_rows :
    opcodeTable.length = 21 ∧ opcodeTable.all (fun r => r.hits r.format r.value) = true
      ∧ (opcodeTable.filter fun r => r.hits .s2s1s0 5).map TableRow.instr = [.memrd] := by decide

/-- The step runs the word that is placed after reset. -/
theorem test_step_runs_placed_word :
    step (State.reset.withFetchWord 8 240)
      = .next { State.reset with lockPrefix := true, req := State.reset.req.withLock true } := rfl

/-! The bus-cycle types: V28 and its corners. -/

/-- V28: INTA shows 000 and 16h, and nothing on the high lane. -/
theorem test_inta :
    codesOf (exec .inta (stOf .max (reqOf .inta 0 false .csNone true 0))) = some (0, some 0x16, true)
      ∧ (lanesOf (exec .inta (stOf .max (reqOf .inta 0 false .csNone true 0)))).map Prod.fst = some none := ⟨rfl, rfl⟩

/-- V29: port 10060h is out of range with 16 bits and in range with 20. -/
theorem test_iord_range :
    refusalOf (exec .iord (stOf .max (reqOf .iord 0x10060 true .csNone true 0))) = some .portOutOfRange
      ∧ codesOf (exec .iord { stOf .max (reqOf .iord 0x10060 true .csNone true 0) with
          cfg := { cfgOf .max with ioAddrBits := 20 } }) = some (1, some 0x16, true) := ⟨rfl, rfl⟩

/-- V28: IOWR.W of 1234h gives port 60h the byte 34h and port 61h the byte 12h. -/
theorem test_iowr_takes_both_ports :
    (recordOf (exec .iowr (stOf .max (reqOf .iowr 0x60 false .csNone false 0x1234)))).map PinRecord.portWrites
      = some [(0x60, 0x34), (0x61, 0x12)] := by decide

/-- V28: HALT shows 011 whatever its tag; V22. -/
theorem test_halt :
    (codesOf (exec .halt (stOf .max (reqOf .halt 0 false .ds true 0)))).map Prod.fst = some 3
      ∧ lanesOf (exec .halt (stOf .max (reqOf .halt 0 false .ds true 0))) = some (none, none) := ⟨rfl, rfl⟩

/-- V28: FETCH.W at FFFFEh (V23's memory) appends AAh before 55h. -/
theorem test_fetch_lower_address_first :
    (nextOf (exec .fetch (stOf .max (reqOf .fetch 0xFFFFE false .csNone false 0)))).map State.queue
      = some [0xAA, 0x55] := by decide

/-- V30: 5 + 2 bytes overflow the queue, 5 + 1 fill it. -/
theorem test_fetch_overflow :
    refusalOf (exec .fetch { stOf .max (reqOf .fetch 0x12346 false .csNone false 0) with queue := [1, 2, 3, 4, 5] })
        = some .queueOverflow
      ∧ (nextOf (exec .fetch { stOf .max (reqOf .fetch 0x12346 true .csNone false 0) with
          queue := [1, 2, 3, 4, 5] })).map State.queue = some [1, 2, 3, 4, 5, 0x34] := ⟨rfl, rfl⟩

/-- V23: MEMRD.W at 12344h. -/
theorem test_memrd_word :
    codesOf (exec .memrd (stOf .max rdEven)) = some (5, some 0x17, true)
      ∧ (nextOf (exec .memrd (stOf .max rdEven))).map State.rdata = some 0x5678 := by decide

/-- V32: the minimum-mode control levels of a MEMRD, and LOCK refused. -/
theorem test_memrd_min_mode :
    (recordOf (exec .memrd (stOf .min rdEven))).map PinRecord.typePins
        = some (.min ⟨true, false, false, true, false, true, true⟩)
      ∧ refusalOf (exec .memrd (stOf .min { rdEven with lock := true })) = some .lockInMinMode := by decide

/-- V24: MEMWR.W of ABCDh; the neighbours stay. -/
theorem test_memwr_word :
    (nextOf (exec .memwr (stOf .max rdEven))).map (fun t =>
        [t.mem.read 0x12344, t.mem.read 0x12345, t.mem.read 0x12346]) = some [0xCD, 0xAB, 0x34] := by decide

/-- V24: MEMWR.H at 12345h leaves 12344h. -/
theorem test_memwr_high_byte :
    (nextOf (exec .memwr (stOf .max rdOdd))).map (fun t => [t.mem.read 0x12344, t.mem.read 0x12345])
      = some [0x78, 0xEF] := by decide

/-- V34: PASSIVE shows 111 and keeps a held lock low. -/
theorem test_passive_keeps_lock :
    codesOf (exec .passive { stOf .max idleRequest with lockHeld := true }) = some (7, none, false) := by decide

/-! The segment tags: V20, V22. -/

theorem test_tags_on_a_read :
    (codesOf (exec .es (stOf .max rdEven))).map (fun c => c.2.1) = some (some 0x14)
      ∧ (codesOf (exec .ss (stOf .max rdEven))).map (fun c => c.2.1) = some (some 0x15)
      ∧ (codesOf (exec .csNone (stOf .max rdEven))).map (fun c => c.2.1) = some (some 0x16)
      ∧ (codesOf (exec .ds (stOf .max rdEven))).map (fun c => c.2.1) = some (some 0x17) := by decide

theorem test_ds_refused_on_fetch :
    refusalOf (exec .ds (stOf .max (reqOf .fetch 0x12344 false .csNone true 0))) = some .segKindMismatch := by decide

/-! The transfer forms: V23. -/

theorem test_forms_on_a_read :
    lanesOf (exec .word (stOf .max rdEven)) = some (some 0x56, some 0x78)
      ∧ lanesOf (exec .highByte (stOf .max rdEven)) = some (some 0x56, none)
      ∧ lanesOf (exec .lowByte (stOf .max rdEven)) = some (none, some 0x78)
      ∧ refusalOf (exec .noForm (stOf .max rdEven)) = some .noSelection := by decide

/-! The queue operations: V38. -/

theorem test_q_idle : (nextOf (exec .qIdle { stOf .max rdEven with queue := [0xEA, 0] })).map State.queue = some [0xEA, 0] := by
  decide

theorem test_q_first :
    (nextOf (exec .qFirst { stOf .max rdEven with queue := [0xEA, 0] })).map (fun t => (t.queue, t.taken))
        = some ([0], some 0xEA)
      ∧ refusalOf (exec .qFirst (stOf .max rdEven)) = some .queueUnderflow := by decide

theorem test_q_empty :
    (nextOf (exec .qEmpty { stOf .max rdEven with queue := [0, 0xF0, 0x12] })).map State.queue = some [] := by decide

theorem test_q_subseq :
    (nextOf (exec .qSubseq { stOf .max rdEven with queue := [0] })).map (fun t => (t.queue, t.taken)) = some ([], some 0) := by
  decide

/-! The LOCK: prefix, the other master, the 8288, the trace. -/

/-- R201: the cycle after the prefix has LOCK# low, by its code or handed over as the instruction's own. -/
theorem test_lock_then_read :
    codesOf ((nextOf (exec .lock (stOf .max rdEven))).elim (.refused .lockInMinMode) (exec .memrd))
        = some (5, some 0x17, false)
      ∧ codesOf (step { inOf .max [.instrCycle rdEven] with lockPrefix := true }) = some (5, some 0x17, false) := by
  decide

/-- R73: a byte write at 12345h is a MEMWR with EFh on the high lane, at 12344h with EFh on the low one; R74: a port
primitive has CS_NONE. -/
theorem test_access_lanes_and_tag :
    (splitAccess .memWrite 0x12345 false .ds).first (cfgOf .max) 0x99
        = .ok (reqOf .memwr 0x12345 false .ds false 0xEF99)
      ∧ (splitAccess .memWrite 0x12344 false .ds).first (cfgOf .max) 0x99
        = .ok (reqOf .memwr 0x12344 true .ds false 0x99EF)
      ∧ codesOf (step (inOf .max [.access (splitAccess .ioWrite 0x61 false .ds)])) = some (2, some 0x12, true) :=
  ⟨rfl, rfl, rfl⟩

/-- V35: an unlocked cycle after a locked one has LOCK# = 1 and leaves the lock, and the prefix, ended. -/
theorem test_unlocked_cycle_ends_the_lock :
    let s : State := { inOf .max [.cycle rdEven] with lockHeld := true, lockPrefix := true }
    codesOf (step s) = some (5, some 0x17, true)
      ∧ (nextOf (step s)).map (fun t => (t.lockHeld, t.lockPrefix)) = some (false, false) := by decide

/-- V36, P2: OTHER's write has a step when the lock is not held, and none when it is. -/
theorem test_other_and_lock :
    (nextOf (step { inOf .max [] with turns := [.other], otherPending := [⟨0x400, true, true, 0xFF⟩] })).map
        (fun t => t.mem.read 0x400) = some 0xFF
      ∧ (nextOf (step { inOf .max [] with
          turns := [.other], otherPending := [⟨0x400, true, true, 0xFF⟩], lockHeld := true })).map
        (fun t => t.mem.read 0x400) = some 0 := ⟨rfl, rfl⟩

/-- V33: MRDC* alone is low on 101 among the four named commands. -/
theorem test_bc8288_read :
    (fun o => (o.iorcN, o.iowcN, o.mrdcN, o.mwtcN, o.intaN)) (bc8288 (Kind.code .memrd))
      = (true, true, false, true, true) := rfl

/-- R112: the trace line of a MEMWR. -/
theorem test_trace :
    (requestTrace (reqOf .memwr 0x12345 false .ds false 0xEF00) none).map String.ofList
      = some "MEMWR.H DS:12345h = EFh IF=0" := by decide

/-- R58: pin 28 is M/IO# in minimum mode and S2# in maximum mode; R241: QS1 exists in maximum mode only. -/
theorem test_package :
    pinSignal .min 28 = some .mIo ∧ pinSignal .max 28 = some .s2 ∧ Signal.present .max .qs1 = true
      ∧ Signal.present .min .qs1 = false := by decide

/-! Witnesses: a state that meets the hypotheses of each statement that has some. -/

/-- A state on whose pins an I/O request stands at the top port. -/
def portState (m : Mode) (bheN : Level) : State := stOf m (reqOf .iord 0xFFFF bheN .csNone true 0x1234)

/-- A state of minimum mode with the lock asked for. -/
def lockedMin : State := stOf .min { rdEven with lock := true }

theorem test_witness_AllTwentyOneCodesDecode :
    Format.qs1qs0 ≠ .prefixByte ∧ [true, true].length = Format.qs1qs0.width := by decide

theorem test_witness_StatusLinePatternsByKind : Kind.memwr ≠ .halt ∧ Kind.memwr ≠ .passive := by decide

theorem test_witness_StepRunsTheDecodedInstruction :
    BiuTurn (inOf .max [.code ⟨.qs1qs0, [true, false]⟩]) ∧ BiuTurn { inOf .max [.cycle rdEven] with turns := [.biu] }
      ∧ (inOf .max [.code ⟨.qs1qs0, [true, false]⟩]).pending = .code ⟨.qs1qs0, [true, false]⟩ :: []
      ∧ decode ⟨.qs1qs0, [true, false]⟩ = .ok .qEmpty
      ∧ (inOf .max [.cycle rdEven]).pending = .cycle rdEven :: []
      ∧ (inOf .max [.instrCycle rdEven]).pending = .instrCycle rdEven :: []
      ∧ (∀ x, (inOf .max [.instrAccess x]).pending = .instrAccess x :: [])
      ∧ BiuTurn (inOf .min []) ∧ (inOf .min []).pending = [] :=
  ⟨.inl rfl, .inr rfl, rfl, rfl, rfl, rfl, fun _ => rfl, .inl rfl, rfl⟩

theorem test_witness_LockEndReleasesTheLock :
    BiuTurn (inOf .max [.lockEnd]) ∧ (inOf .max [.lockEnd]).cfg.mode = .max
      ∧ (inOf .max [.lockEnd]).pending = .lockEnd :: [] := by decide

theorem test_witness_InterruptAcknowledgeCycleCompletes :
    (LockAllowed (portState .max false) ∧ (portState .max false).req.seg = .csNone)
      ∧ LockAllowed (portState .min false) ∧ (portState .min false).req.seg = .csNone := by decide

/-- The top port, which 16 bits still reach; it is odd, so BHE# = 0 selects it. -/
theorem test_witness_PortCycles :
    LockAllowed (portState .min false) ∧ (portState .min false).req.seg = .csNone
      ∧ (portState .min false).req.addr.toNat < 2 ^ (portState .min false).cfg.ioAddrBits
      ∧ Selects (portState .min false) := by decide

theorem test_witness_HaltAndPassive : LockAllowed (stOf .max rdEven) ∧ LockAllowed (stOf .min rdEven) := by decide

/-- A word after four bytes fills the queue exactly; after five it is one too many. -/
theorem test_witness_FetchCycleFillsTheQueue :
    let s : State := { stOf .max (reqOf .fetch 0x12344 false .csNone true 0) with queue := [1, 2, 3, 4] }
    let u : State := { s with queue := [1, 2, 3, 4, 5] }
    let bytes := (readLo s s.req.addr).toList ++ (readHi s s.req.addr s.req.bheN).toList
    s.cfg.mode = .max ∧ s.req.seg = .csNone ∧ Selects s ∧ s.queue.length + bytes.length = s.cfg.queueDepth
      ∧ u.cfg.queueDepth < u.queue.length + bytes.length := by decide

theorem test_witness_FetchInMinimumModeIsAMemoryRead :
    let s := stOf .min (reqOf .fetch 0x12344 false .csNone true 0)
    s.cfg.mode = .min ∧ s.req.lock = false ∧ s.req.seg = .csNone ∧ Selects s := by decide

/-- The last byte of memory, and the last word (V23). -/
theorem test_witness_MemoryReadCycleCompletes :
    LockAllowed (stOf .max (reqOf .memrd 0xFFFFF false .ds true 0)) ∧ Selects (stOf .max (reqOf .memrd 0xFFFFF false .ds true 0))
      ∧ LockAllowed (stOf .min (reqOf .memrd 0xFFFFE true .ds true 0))
      ∧ Selects (stOf .min (reqOf .memrd 0xFFFFE true .ds true 0)) := by decide

theorem test_witness_MemoryWriteCycleCompletes :
    LockAllowed (stOf .max rdOdd) ∧ Selects (stOf .max rdOdd) ∧ (stOf .max rdOdd).mem.wf = true := by decide

/-- An odd address with BHE# = 1, with any tag, with CS_NONE, and with a port in range. -/
theorem test_witness_DataCycleWithoutSelectionIsRefused :
    LockAllowed (portState .max true) ∧ (portState .max true).req.bheN = true ∧ a0 (portState .max true).req.addr = true
      ∧ (portState .max true).req.seg = .csNone
      ∧ (portState .max true).req.addr.toNat < 2 ^ (portState .max true).cfg.ioAddrBits := by decide

theorem test_witness_OtherTagsAreRefusedOutsideMemoryData :
    LockAllowed (stOf .max rdEven) ∧ (stOf .max rdEven).req.seg ≠ .csNone := by decide

/-- The first port beyond 16 bits. -/
theorem test_witness_PortBeyondTheWidthIsRefused :
    let s := stOf .max (reqOf .iord 0x10000 true .csNone true 0)
    LockAllowed s ∧ s.req.seg = .csNone ∧ 2 ^ s.cfg.ioAddrBits = s.req.addr.toNat := by decide

theorem test_witness_LockIsRefusedInMinimumMode :
    lockedMin.cfg.mode = .min ∧ isCycleCode .noForm = true ∧ lockedMin.req.lock = true := by decide

theorem test_witness_SegmentTagsOnAMemoryRead :
    LockAllowed (stOf .max rdEven) ∧ Selects (stOf .max rdEven) ∧ (stOf .max rdEven).req.kind = .memrd := by decide

theorem test_witness_SegmentTagsOnAMemoryWrite :
    let s := stOf .max { rdEven with kind := .memwr }
    LockAllowed s ∧ Selects s ∧ s.req.kind = .memwr ∧ s.mem.wf = true := by decide

theorem test_witness_SegmentTagsRunTheRequestsCycle :
    LockAllowed (portState .max false)
      ∧ ((portState .max false).req.kind = .fetch ∨ (portState .max false).req.kind = .iord
        ∨ (portState .max false).req.kind = .iowr ∨ (portState .max false).req.kind = .inta) := by decide

/-- For the three forms that move data, on a read and on a write. -/
theorem test_witness_FormsOnMemory :
    LockAllowed (stOf .max rdOdd) ∧ (stOf .max rdOdd).mem.wf = true
      ∧ (0x12344 : Addr) = loAddr (stOf .max rdOdd).req.addr ∧ (0x12345 : Addr) = hiAddr (stOf .max rdOdd).req.addr
      ∧ (stOf .max rdOdd).req.kind = .memrd ∧ (stOf .max { rdOdd with kind := .memwr }).req.kind = .memwr := by decide

theorem test_witness_NoneFormMovesNothing :
    LockAllowed (stOf .max idleRequest) ∧ (stOf .max idleRequest).req.kind = .passive
      ∧ (stOf .max (reqOf .halt 0 true .ds true 0)).req.kind = .halt
      ∧ (stOf .max (reqOf .inta 0 true .csNone true 0)).req.seg = .csNone
      ∧ (stOf .max rdEven).req.kind = .memrd ∧ (stOf .max { rdEven with kind := .memwr }).req.kind = .memwr
      ∧ (stOf .max (reqOf .fetch 0 true .csNone true 0)).req.kind = .fetch := by decide

/-- 12345h and 12344h agree in every bit but bit 0. -/
theorem test_witness_FormCodesRunTheRequestsCycle :
    (∀ n, 1 ≤ n → n < 20 → (0x12345 : Addr).getLsbD n = (stOf .max rdEven).req.addr.getLsbD n)
      ∧ a0 (0x12345 : Addr) = true ∧ a0 (0x12344 : Addr) = false := by decide

theorem test_witness_QueueOperations :
    (stOf .max rdEven).cfg.mode = .max ∧ (stOf .max rdEven).queue = []
      ∧ ({ stOf .max rdEven with queue := [0xEA] } : State).queue = 0xEA :: [] := by decide

theorem test_witness_QueueOperationsAndLockEndNeedMaximumMode :
    (inOf .min [.lockEnd]).cfg.mode = .min ∧ (inOf .min [.lockEnd]).pending = .lockEnd :: [] := by decide

theorem test_witness_LockPrefixChangesOnlyThePrefixState : (stOf .max rdEven).cfg.mode = .max := by decide

/-- The four clauses: a code, a request, an odd word and its second cycle (at FFFFDh, the highest odd-address
word). -/
theorem test_witness_PrefixedCyclesHoldLockLow :
    let s : State := { stOf .max { rdEven with lock := true } with lockPrefix := true }
    let x := splitAccess .memRead 0xFFFFD true .ds
    let u (i : EnvInput) : State := { inOf .max [i] with lockPrefix := true }
    (s.cfg.mode = .max ∧ s.lockPrefix = true ∧ s.req.lock = true ∧ (∃ t, exec .memrd s = .next t)
      ∧ isCycleCode .memrd = true ∧ performedKind .memrd s ≠ .passive)
      ∧ (∀ i, (u i).cfg.mode = .max ∧ (u i).lockPrefix = true ∧ BiuTurn (u i) ∧ (u i).pending = i :: [])
      ∧ rdEven.kind ≠ .passive ∧ (∃ t, step (u (.instrCycle rdEven)) = .next t)
      ∧ (∃ t, step (u (.instrAccess x)) = .next t)
      ∧ ∃ t, step (u (.accessRest { x with lock := true })) = .next t :=
  ⟨⟨rfl, rfl, rfl, ⟨_, rfl⟩, rfl, by decide⟩, fun _ => ⟨rfl, rfl, .inl rfl, rfl⟩, by decide, ⟨_, rfl⟩, ⟨_, rfl⟩, _, rfl⟩

/-- A completed cycle, a queue operation, and a form code on a PASSIVE request. -/
theorem test_witness_LockFollowsTheCyclesRequest :
    (∃ t, exec .memrd (stOf .max rdEven) = .next t) ∧ performedKind .memrd (stOf .max rdEven) ≠ .passive
      ∧ (∃ t, exec .qIdle (stOf .max rdEven) = .next t) ∧ isCycleCode .qIdle = false
      ∧ (∃ t, exec .word (stOf .max idleRequest) = .next t) ∧ performedKind .word (stOf .max idleRequest) = .passive :=
  ⟨⟨_, rfl⟩, by decide, ⟨_, rfl⟩, rfl, ⟨_, rfl⟩, rfl⟩

theorem test_witness_LockDoesNotChangeTheCycle :
    (stOf .max rdEven).cfg.mode = .max ∧ (stOf .max rdEven).req.lock = false ∧ isCycleCode .ss = true
      ∧ ∃ t, exec .ss (stOf .max rdEven) = .next t := ⟨rfl, rfl, rfl, _, rfl⟩

/-- OTHER with its turn, for a read and for a write, at the last byte of memory. -/
theorem test_witness_OtherMastersCycleFollowsTheLanes :
    let r : OtherReq := ⟨0xFFFFF, false, true, 0⟩
    let s : State := { inOf .max [] with turns := [.other], otherPending := [r] }
    s.cfg.mode = .max ∧ s.cfg.otherMaster = true ∧ s.lockHeld = false ∧ s.mem.wf = true
      ∧ s.turns = .other :: [] ∧ s.otherPending = r :: [] ∧ (r.bheN = false ∨ a0 r.addr = false)
      ∧ r.isWrite = true ∧ ({ r with isWrite := false } : OtherReq).isWrite = false := by decide

/-- Each of the three reasons OTHER has no step, with its turn there. -/
theorem test_witness_LockedOutOtherMasterHasNoStep :
    let r : OtherReq := ⟨0x400, true, true, 0xFF⟩
    (∃ t, step { inOf .max [] with turns := [.other], otherPending := [r], lockHeld := true } = .next t)
      ∧ (∃ t, step { inOf .min [] with turns := [.other], otherPending := [r] } = .next t)
      ∧ ∃ t, step { inOf .max [] with
          cfg := { cfgOf .max with otherMaster := false }, turns := [.other], otherPending := [r] } = .next t :=
  ⟨⟨_, rfl⟩, ⟨_, rfl⟩, ⟨_, rfl⟩⟩

theorem test_witness_OtherMasterSharesOnlyMemory :
    ∃ t, otherCycle ⟨0x400, true, true, 0xFF⟩ (stOf .max rdEven) = .next t := ⟨_, rfl⟩

/-- A read, a write to canonical memory, and a cycle that is neither. -/
theorem test_witness_OnlyMemoryCyclesTouchMemory :
    (∃ t, exec .memrd (stOf .max rdEven) = .next t) ∧ performedKind .memrd (stOf .max rdEven) = .memrd
      ∧ (∃ t, exec .memwr (stOf .max rdOdd) = .next t) ∧ performedKind .memwr (stOf .max rdOdd) = .memwr
      ∧ (stOf .max rdOdd).mem.wf = true
      ∧ (∃ t, exec .iowr (portState .max false) = .next t) ∧ performedKind .iowr (portState .max false) = .iowr :=
  ⟨⟨_, rfl⟩, rfl, ⟨_, rfl⟩, rfl, by decide, ⟨_, rfl⟩, rfl⟩

theorem test_witness_ReadAfterWriteReturnsTheWrittenBytes :
    LockAllowed (stOf .max rdOdd) ∧ (stOf .max rdOdd).mem.wf = true ∧ ∃ t, exec .memwr (stOf .max rdOdd) = .next t :=
  ⟨.inl rfl, by decide, _, rfl⟩



/-- The highest odd-address word (V25), the highest odd-address word of ports that both lie within 16 bits, and a
fetch that fills the queue exactly. -/
theorem test_witness_SplitWords :
    let r := splitAccess .memRead 0xFFFFD true .ds
    let w := splitAccess .memWrite 0xFFFFD true .ds
    let pr := splitAccess .ioRead 0xFFFD true .ds
    let pw := splitAccess .ioWrite 0xFFFD true .ds
    let f := splitAccess .fetch 0xFFFFD true .csNone
    let s (x : Access) : State := { inOf .max [.access x] with queue := [1, 2, 3, 4] }
    (Reads r ∧ Reads pr ∧ Reads f ∧ Writes w ∧ Writes pw)
      ∧ (Accepted (s r) r 2 ∧ Accepted (s w) w 2 ∧ Accepted (s pr) pr 2 ∧ Accepted (s pw) pw 2 ∧ Accepted (s f) f 2)
      ∧ (∀ x ∈ [r, w, pr, pw, f], x.wide = true ∧ a0 x.addr = true ∧ x.addr ≠ 0xFFFFF#20)
      ∧ ∀ x, (s x).cfg.splitOddWord = true ∧ (s x).cfg.mode = .max ∧ (s x).mem.wf = true ∧ (s x).turns = []
        ∧ (s x).pending = [.access x] := by
  refine ⟨by decide, by decide, by decide, fun x => ⟨rfl, rfl, (by decide : vMem.wf = true), rfl, rfl⟩⟩

/-- Both refusals: 12345h and FFFFFh without splitting (log 25), FFFFFh with it (V25, V26). -/
theorem test_witness_OddWordRefusals :
    let x := splitAccess .memRead 0x12345 true .ds
    let y := splitAccess .memWrite 0xFFFFF true .ds
    let s : State := { inOf .max [.access x] with cfg := { cfgOf .max with splitOddWord := false } }
    let u : State := { s with pending := [.access y] }
    BiuTurn u ∧ u.pending = .access y :: [] ∧ u.cfg.splitOddWord = false ∧ x.wide = true ∧ a0 x.addr = true ∧ BiuTurn s ∧ s.pending = .access x :: [] ∧ s.cfg.splitOddWord = false
      ∧ y.wide = true ∧ a0 y.addr = true ∧ (inOf .max [.access y]).pending = .access y :: []
      ∧ (inOf .max [.access y]).cfg.splitOddWord = true ∧ y.addr = 0xFFFFF#20 := by decide

/-- The last byte and the last aligned word of memory, and the last port and aligned word of ports. -/
theorem test_witness_UnsplitAccessesTakeOneCycle :
    let s (x : Access) : State := inOf .min [.access x]
    let bs := [splitAccess .memRead 0xFFFFF false .ds, splitAccess .ioRead 0xFFFF false .ds,
      splitAccess .fetch 0xFFFFF false .csNone]
    let bw := [splitAccess .memWrite 0xFFFFF false .ds, splitAccess .ioWrite 0xFFFF false .ds]
    let ws := [splitAccess .memRead 0xFFFFE true .ds, splitAccess .ioRead 0xFFFE true .ds,
      splitAccess .fetch 0xFFFFE true .csNone]
    let ww := [splitAccess .memWrite 0xFFFFE true .ds, splitAccess .ioWrite 0xFFFE true .ds]
    (∀ x ∈ bs, Reads x ∧ x.wide = false ∧ Accepted (s x) x 1)
      ∧ (∀ x ∈ ws, Reads x ∧ x.wide = true ∧ a0 x.addr = false ∧ Accepted (s x) x 2)
      ∧ (∀ x ∈ bw, Writes x ∧ x.wide = false ∧ Accepted (s x) x 1)
      ∧ (∀ x ∈ ww, Writes x ∧ x.wide = true ∧ a0 x.addr = false ∧ Accepted (s x) x 2)
      ∧ (∀ x ∈ bs ++ bw ++ ws ++ ww, x.lock = false)
      ∧ ∀ x, BiuTurn (s x) ∧ (s x).pending = .access x :: [] ∧ (s x).mem.wf = true := by
  refine ⟨by decide, by decide, by decide, by decide, by decide, fun x => ⟨.inl rfl, rfl, (by decide : vMem.wf = true)⟩⟩

/-- V31's state. -/
theorem test_witness_FetchedByteSurvivesALaterWrite :
    let f := reqOf .fetch 0x12344 true .csNone false 0
    let w := reqOf .memwr 0x12344 true .csNone false 0x99
    let s := inOf .max [.cycle f, .cycle w, .code ⟨.qs1qs0, [false, true]⟩]
    s.cfg.mode = .max ∧ s.queue = [] ∧ 2 ≤ s.cfg.queueDepth ∧ s.turns = [] ∧ f.kind = .fetch ∧ f.seg = .csNone
      ∧ (f.bheN = false ∨ a0 f.addr = false) ∧ w = { f with kind := .memwr, wdata := w.wdata }
      ∧ s.pending = [.cycle f, .cycle w, .code ⟨.qs1qs0, [false, true]⟩] := by decide

theorem test_witness_AcknowledgeIsConsecutiveIntaCycles :
    let r := reqOf .inta 0 false .csNone true 0
    let s := inOf .max [.acknowledge r]
    s.cfg.mode = .max ∧ s.cfg.wf = true ∧ r.seg = .csNone ∧ s.turns = [] ∧ s.pending = [.acknowledge r] := by decide

/-- For the statements about every completed cycle, in either mode. -/
theorem test_witness_CompletedCycles :
    (∃ t, exec .memrd (stOf .max rdEven) = .next t) ∧ (∃ t, exec .passive (stOf .min rdEven) = .next t)
      ∧ isCycleCode .memrd = true ∧ isCycleCode .passive = true ∧ (stOf .max rdEven).cfg.mode = .max :=
  ⟨⟨_, rfl⟩, ⟨_, rfl⟩, rfl, rfl, rfl⟩

/-- Each of the five data-moving kinds; for AddressPhaseCarriesTheRequest and PinsEncodeTheWholeRequest. -/
theorem test_witness_PinsEncodeTheWholeRequest :
    (stOf .max rdEven).cfg.mode = .max ∧ (∃ t, exec .memrd (stOf .max rdEven) = .next t)
      ∧ (∃ t, exec .memwr (stOf .max rdEven) = .next t) ∧ (∃ t, exec .iord (portState .max false) = .next t)
      ∧ (∃ t, exec .iowr (portState .max false) = .next t) ∧ ∃ t, exec .fetch (portState .max false) = .next t :=
  ⟨rfl, ⟨_, rfl⟩, ⟨_, rfl⟩, ⟨_, rfl⟩, ⟨_, rfl⟩, _, rfl⟩

theorem test_witness_ControllerOutputsByCode :
    (⟨true, true, false⟩ : KindCode) = ⟨true, true, false⟩ ∧ (⟨true, false, false⟩ : KindCode).kind = .fetch := by decide

theorem test_witness_EveryStepKeepsTheStateSafe :
    (inOf .max [.cycle rdEven]).safe = true ∧ ∃ t, step (inOf .max [.cycle rdEven]) = .next t := ⟨by decide, _, rfl⟩

/-- For the statements about runs: two steps, the second a cycle of OTHER. -/
theorem test_witness_Runs :
    ∃ t, Host.Core.run core 2 { inOf .max [.cycle rdEven] with
      turns := [.biu, .other], otherPending := [⟨0x400, true, true, 0xFF⟩] } = .next t := ⟨_, rfl⟩

end Sys2Proof.Tests
end

