-- ==== Sys2Proof/Proofs/StepOnTheBiuTurn.lean ====
section
/-! PROOFS. The step on the 8086's turn (00_scope.md R13, 10_state.md R20): what is taken up for each input EU_ENV
can hand over, and which instruction then runs. -/

namespace Sys2Proof.Machine

open Stated

/-! The decoder on a request's own code. -/

/-- R160: the code a request's kind puts on S2# S1# S0# reads back as that kind's instruction. -/
@[simp] theorem decode_kindWord (k : Kind) : decode k.word = .ok k.instr := by cases k <;> rfl

/-! Finishing an instruction that is not a read primitive's cycle. -/

@[simp] theorem finishOutcome_nothing (o : Host.Outcome State Fault Refusal) : finishOutcome .nothing o = o := by
  cases o <;> rfl

/-! What is taken up, by the input that stands first. -/

section
variable {s : State} {rest : List EnvInput}

theorem fetchInput_of_pending_nil (h : s.pending = []) :
    fetchInput s = presentRequest (idleRequest.withLock s.lockPrefix) .nothing s.pending s := by
  simp only [fetchInput, h]

theorem fetchInput_of_pending_cycle {r : BusReq} (h : s.pending = .cycle r :: rest) :
    fetchInput s = presentRequest r .nothing rest s := by
  simp only [fetchInput, h]

theorem fetchInput_of_pending_instrCycle {r : BusReq} (h : s.pending = .instrCycle r :: rest) :
    fetchInput s = presentRequest (r.withLock s.lockPrefix) .nothing rest s := by
  simp only [fetchInput, h]

theorem fetchInput_of_pending_code {w : CodeWord} (h : s.pending = .code w :: rest) :
    fetchInput s = .code w .nothing { s with pending := rest } := by
  simp only [fetchInput, h]

theorem fetchInput_of_pending_access {x : Access} (h : s.pending = .access x :: rest) :
    fetchInput s = presentAccess x rest s := by
  simp only [fetchInput, h]

theorem fetchInput_of_pending_instrAccess {x : Access} (h : s.pending = .instrAccess x :: rest) :
    fetchInput s = presentAccess (x.withLock s.lockPrefix) rest s := by
  simp only [fetchInput, h]

/-- R201: a request of the instruction in progress is taken up as the same plain request with that
instruction's `lock`. -/
theorem fetchInput_instrCycle_eq_cycle {r : BusReq} (h : s.pending = .instrCycle r :: rest) :
    fetchInput s = fetchInput { s with pending := .cycle (r.withLock s.lockPrefix) :: rest } := by
  rw [fetchInput_of_pending_instrCycle h, fetchInput_of_pending_cycle (rest := rest) rfl]
  rfl

/-- R201: and so is an access primitive of the instruction in progress. -/
theorem fetchInput_instrAccess_eq_access {x : Access} (h : s.pending = .instrAccess x :: rest) :
    fetchInput s = fetchInput { s with pending := .access (x.withLock s.lockPrefix) :: rest } := by
  rw [fetchInput_of_pending_instrAccess h, fetchInput_of_pending_access (rest := rest) rfl]
  rfl

end

/-! The step of the bus interface, by what is taken up. -/

/-- A code that decodes runs its instruction; with nothing to finish, the outcome is the instruction's own. -/
theorem biuStep_of_code {s s' : State} {w : CodeWord} {i : Instr} (hf : fetchInput s = .code w .nothing s')
    (hd : decode w = .ok i) : biuStep s = exec i s' := by
  simp only [biuStep, hf, hd, finishOutcome_nothing]

/-- A presented request runs its kind's instruction with the request on the pins. -/
theorem biuStep_of_presentRequest {s : State} {r : BusReq} {rest : List EnvInput}
    (hf : fetchInput s = presentRequest r .nothing rest s) :
    biuStep s = exec r.kind.instr { s with req := r, pending := rest } :=
  biuStep_of_code hf (decode_kindWord r.kind)

/-- What the bus interface does depends on a state only through what it takes up. -/
theorem biuStep_congr {s s' : State} (h : fetchInput s = fetchInput s') : biuStep s = biuStep s' := by
  simp only [biuStep, h]

/-! Whose turn it is. -/

/-- On the 8086's turn OTHER has no cycle (log 15). -/
theorem otherTurn_of_biuTurn {s : State} (hb : BiuTurn s) : otherTurn s = none := by
  cases ho : otherTurn s with
  | none => rfl
  | some p =>
    obtain ⟨-, turns, _, ht, -, -⟩ := otherTurn_some (r := p.1) (s' := p.2) ho
    rcases hb with hnil | hbiu
    · rw [ht] at hnil; cases hnil
    · rw [ht] at hbiu; cases hbiu

/-- The step on the 8086's turn is the bus interface's, with the turn used up. -/
theorem step_of_biuTurn {s : State} (hb : BiuTurn s) : step s = biuStep { s with turns := s.turns.tail } := by
  simp only [step, otherTurn_of_biuTurn hb]

/-- On the 8086's turn, inputs from which the same is taken up give the same step. -/
theorem step_congr_pending {s : State} {inputs : List EnvInput} (hb : BiuTurn s)
    (h : fetchInput { s with turns := s.turns.tail }
      = fetchInput { s with turns := s.turns.tail, pending := inputs }) :
    step s = step { s with pending := inputs } :=
  calc step s = biuStep { s with turns := s.turns.tail } := step_of_biuTurn hb
    _ = biuStep { s with turns := s.turns.tail, pending := inputs } := biuStep_congr h
    _ = step { s with pending := inputs } := (step_of_biuTurn (s := { s with pending := inputs }) hb).symm

end Sys2Proof.Machine

open Sys2Proof Sys2Proof.Machine Sys2Proof.Stated

/-- Settles O4: on the 8086's turn the step is the bus interface's, and each input it can take up has an equation of
its own; a request's code decodes to its kind's instruction. -/
theorem stepRunsTheDecodedInstruction : Obligations.StepRunsTheDecodedInstruction := by
  intro s rest hb
  refine ⟨?code, ?cycle, ?instrCycle, ?instrAccess, ?idle⟩
  case code =>
    intro w i hp hd
    rw [step_of_biuTurn hb]
    exact biuStep_of_code (fetchInput_of_pending_code hp) hd
  case cycle =>
    intro r hp
    refine ⟨_, decode_kindWord r.kind, rfl, ?_⟩
    rw [step_of_biuTurn hb]
    exact biuStep_of_presentRequest (fetchInput_of_pending_cycle hp)
  case instrCycle =>
    intro r hp
    exact step_congr_pending hb (fetchInput_instrCycle_eq_cycle hp)
  case instrAccess =>
    intro x hp
    exact step_congr_pending hb (fetchInput_instrAccess_eq_access hp)
  case idle =>
    intro hp
    rw [step_of_biuTurn hb]
    exact biuStep_of_presentRequest (s := { s with turns := s.turns.tail }) (fetchInput_of_pending_nil hp)

end

section
/-! PROOFS. What every step keeps (10_state.md R30, R41): the configuration stays, the history is only appended to,
and a safe state stays safe. -/

namespace Sys2Proof.Machine

/-! A step keeps the configuration and appends to the history (R13, R30, R41). -/

/-- The configuration stays and the history gets at most `n` more events at its end. -/
structure GrowsBy (n : Nat) (s t : State) : Prop where
  cfg : t.cfg = s.cfg
  history : ∃ es : List Event, es.length ≤ n ∧ t.history = s.history ++ es

theorem growsBy_zero {s t : State} (hc : t.cfg = s.cfg) (hh : t.history = s.history) : GrowsBy 0 s t :=
  ⟨hc, [], Nat.le_refl 0, by rw [hh, List.append_nil]⟩

theorem growsBy_one {s t : State} {e : Event} (hc : t.cfg = s.cfg) (hh : t.history = s.history ++ [e]) :
    GrowsBy 1 s t :=
  ⟨hc, [e], Nat.le_refl 1, hh⟩

theorem GrowsBy.trans {m n : Nat} {s t u : State} (h₁ : GrowsBy m s t) (h₂ : GrowsBy n t u) :
    GrowsBy (m + n) s u := by
  obtain ⟨hc₁, es₁, hl₁, hh₁⟩ := h₁
  obtain ⟨hc₂, es₂, hl₂, hh₂⟩ := h₂
  refine ⟨hc₂.trans hc₁, es₁ ++ es₂, ?_, ?_⟩
  · rw [List.length_append]; omega
  · rw [hh₂, hh₁, List.append_assoc]

theorem GrowsBy.mono {m n : Nat} {s t : State} (hmn : m ≤ n) (h : GrowsBy m s t) : GrowsBy n s t :=
  let ⟨es, hl, hh⟩ := h.history
  ⟨h.cfg, es, hl.trans hmn, hh⟩

theorem SameMachine.growsBy {s s' : State} (h : SameMachine s s') : GrowsBy 0 s s' :=
  growsBy_zero h.cfg h.history

/-- An instruction appends one event, LOCK none (R41; log 12). -/
theorem exec_growsBy {i : Instr} {s t : State} (h : exec i s = .next t) : GrowsBy 1 s t := by
  rcases exec_next h with ⟨r, hcycle⟩ | ⟨op, hqueue⟩ | hlock
  · obtain ⟨p, -, -, rfl⟩ := busCycle_next hcycle
    exact growsBy_one rfl rfl
  · obtain ⟨-, q, b, -, rfl⟩ := queueOp_next hqueue
    exact growsBy_one rfl rfl
  · obtain ⟨-, rfl⟩ := lockPrefixOp_next hlock
    exact .mono (Nat.zero_le 1) (growsBy_zero rfl rfl)

theorem lockEnd_growsBy {s t : State} (h : lockEnd s = .next t) : GrowsBy 1 s t := by
  obtain ⟨-, rfl⟩ := lockEnd_next h
  exact growsBy_one rfl rfl

theorem otherCycle_growsBy {r : OtherReq} {s t : State} (h : otherCycle r s = .next t) : GrowsBy 1 s t := by
  obtain ⟨-, ⟨-, rfl⟩ | ⟨-, rfl⟩⟩ := otherCycle_next h <;> exact growsBy_one rfl rfl

theorem step_growsBy {s t : State} (h : step s = .next t) : GrowsBy 1 s t := by
  rcases step_next h with ⟨r, s', hturn, hother⟩ | ⟨s', hsame, hend⟩ | ⟨i, f, s', u, hsame, hexec, rfl⟩
  · obtain ⟨-, _, _, -, -, rfl⟩ := otherTurn_some hturn
    have hgrows := otherCycle_growsBy hother
    exact ⟨hgrows.cfg, hgrows.history⟩
  · exact hsame.growsBy.trans (lockEnd_growsBy hend)
  · exact (hsame.growsBy.trans (exec_growsBy hexec)).trans
      (growsBy_zero (finish_cfg u f) (finish_history u f))

/-! Runs (R13). -/

/-- A run of `n + 1` steps is a step and then a run of `n`. -/
theorem run_succ {M : Host.Core} {n : Nat} {s t : M.State} (h : M.run (n + 1) s = .next t) :
    ∃ s', M.step s = .next s' ∧ M.run n s' = .next t := by
  rw [Host.Core.run] at h
  split at h
  · rename_i s' hstep
    exact ⟨s', hstep, h⟩
  · cases h
  · cases h

/-- A relation between the ends of a run holds when it holds of the run of no steps and one more step in front
keeps it. -/
theorem run_induction {motive : Nat → State → State → Prop} (zero : ∀ s, motive 0 s s)
    (succ : ∀ n s s' t, step s = .next s' → motive n s' t → motive (n + 1) s t) :
    ∀ n s t, Host.Core.run core n s = .next t → motive n s t
  | 0, s, _, h => by
    injection h with h
    exact h ▸ zero s
  | n + 1, s, t, h => by
    obtain ⟨s', hstep, hrun⟩ := run_succ h
    exact succ n s s' t hstep (run_induction zero succ n s' t hrun)

theorem run_growsBy : ∀ (n : Nat) (s t : State), Host.Core.run core n s = .next t → GrowsBy n s t :=
  run_induction (fun _ => growsBy_zero rfl rfl)
    (fun n _ _ _ hstep hrun => Nat.add_comm 1 n ▸ (step_growsBy hstep).trans hrun)

/-! The history's lock (R82, R200). -/

/-- A run of events respects the lock when its first part does, and the rest does from the lock the first part
leaves. -/
theorem lockRespected_append (es fs : List Event) (held : Bool) :
    lockRespected held (es ++ fs) = (lockRespected held es && lockRespected (es.foldl replayLock held) fs) := by
  induction es generalizing held with
  | nil => rfl
  | cons e es ih =>
    cases e with
    | other a b w hi lo =>
      simp only [List.cons_append, lockRespected, List.foldl_cons, replayLock, ih, Bool.and_assoc]
    | cycle p => exact ih _
    | queueOp op => exact ih _
    | lockEnd => exact ih _

/-- In either mode the type pins show a PASSIVE step as one, and no other cycle (R160, R176). -/
theorem typePins_passive (m : Mode) (held : Bool) (d : Nat) (r : BusReq) :
    (typePins m held d r).strobes.passive = (r.kind == .passive) := by
  cases m <;> cases hk : r.kind <;>
    simp [typePins, maxPins, minModeControls, TypePins.strobes, Kind.code, hk]

/-- The lock the pins of a cycle show is the one the cycle leaves; minimum mode has no LOCK#, and no cycle with
`lock` there (R200, R203). -/
theorem replayLock_cycle {r : BusReq} {s : State} (p : CyclePart)
    (hl : (r.lock && s.cfg.mode == .min) = false) :
    replayLock s.lockHeld (.cycle (p.pinRecord r s)) = lockHeldAfter s.lockHeld r := by
  simp only [replayLock, PinRecord.strobes, CyclePart.pinRecord, typePins_passive]
  by_cases hk : r.kind = .passive
  · simp [hk, lockHeldAfter]
  · obtain ⟨hheld, -, hlevel⟩ := lockAfter_cycle hk s.lockHeld s.lockPrefix
    cases hm : s.cfg.mode with
    | max => simp [hk, typePins, maxPins, hheld, hlevel]
    | min => simpa [hk, typePins, hheld, hm] using hl.symm

/-! The pin record of a cycle is one an 8086 in this mode can produce (R12, R105, R149). -/

theorem typePins_inMode (m : Mode) (held : Bool) (d : Nat) (r : BusReq) :
    (typePins m held d r).inMode m = true := by cases m <;> rfl

/-- Neither INTA nor HALT shows as a read or a write (R162, R165). -/
theorem typePins_movesData_of_inta_or_halt {r : BusReq} (hk : r.kind = .inta ∨ r.kind = .halt) (m : Mode)
    (held : Bool) (d : Nat) : (typePins m held d r).strobes.movesData = false := by
  rcases hk with hk | hk <;> cases m <;>
    simp [typePins, maxPins, minModeControls, TypePins.strobes, Strobes.movesData, Kind.code, hk]

/-- A PASSIVE step has neither phase; any other cycle has both, and it selects a lane unless it is an INTA or a
HALT (R149, R150, R169). -/
theorem cyclePart_phases {r : BusReq} {s : State} {p : CyclePart} (h : cyclePart r s = .ok p) :
    (r.kind = .passive ∧ p.address = none ∧ p.status = none)
      ∨ (r.kind ≠ .passive ∧ ∃ ad i t, p.address = some ad ∧ p.status = some (statusPhase i t)
          ∧ ((r.kind = .inta ∨ r.kind = .halt) ∨ formOf ad.bheN ad.a ≠ .noForm)) := by
  unfold cyclePart at h
  split at h <;> rename_i hk
  · obtain ⟨-, rfl⟩ := intaPart_ok h
    exact .inr ⟨by simp [hk], _, _, _, rfl, rfl, .inl (.inl hk)⟩
  · obtain ⟨-, -, hf, rfl⟩ := iordPart_ok h
    exact .inr ⟨by simp [hk], _, _, _, rfl, rfl, .inr hf⟩
  · obtain ⟨-, -, hf, rfl⟩ := iowrPart_ok h
    exact .inr ⟨by simp [hk], _, _, _, rfl, rfl, .inr hf⟩
  · obtain rfl := haltPart_ok h
    exact .inr ⟨by simp [hk], _, _, _, rfl, rfl, .inl (.inr hk)⟩
  · obtain ⟨-, hf, hp, -⟩ := fetchPart_ok h
    rw [hp]
    exact .inr ⟨by simp [hk], _, _, _, rfl, rfl, .inr hf⟩
  · obtain ⟨hf, rfl⟩ := memrdPart_ok h
    exact .inr ⟨by simp [hk], _, _, _, rfl, rfl, .inr hf⟩
  · obtain ⟨hf, rfl⟩ := memwrPart_ok h
    exact .inr ⟨by simp [hk], _, _, _, rfl, rfl, .inr hf⟩
  · obtain rfl := passivePart_ok h
    exact .inl ⟨hk, rfl, rfl⟩

theorem pinRecord_legal {r : BusReq} {s : State} {p : CyclePart} (h : cyclePart r s = .ok p) :
    (p.pinRecord r s).legal s.cfg.mode = true := by
  rcases cyclePart_phases h with ⟨hk, ha, hst⟩ | ⟨hk, ad, i, t, ha, hst, hsel⟩
  · simp [PinRecord.legal, PinRecord.selects, PinRecord.strobes, CyclePart.pinRecord, typePins_inMode,
      typePins_passive, hk, ha, hst]
  · have hselects : (p.pinRecord r s).selects = true := by
      simp only [PinRecord.selects, PinRecord.strobes, CyclePart.pinRecord, ha]
      rcases hsel with hk' | hf
      · simp [typePins_movesData_of_inta_or_halt hk']
      · simp [hf]
    simp only [PinRecord.legal, hselects]
    simp [PinRecord.strobes, CyclePart.pinRecord, typePins_inMode, typePins_passive, StatusPhase.legal,
      statusPhase, hk, ha, hst]

/-! The queue stays within its depth (R41, R166, R210). -/

/-- What a cycle does to the queue: a maximum-mode FETCH appends its bytes where the queue has room, every other
cycle leaves it. -/
theorem cyclePart_queue {r : BusReq} {s : State} {p : CyclePart} (h : cyclePart r s = .ok p) :
    (r.kind = .fetch ∧ s.cfg.mode = .max ∧ p.queue = s.queue ++ p.lanes.fetched
        ∧ p.queue.length ≤ s.cfg.queueDepth)
      ∨ (¬ (r.kind = .fetch ∧ s.cfg.mode = .max) ∧ p.queue = s.queue) := by
  unfold cyclePart at h
  split at h <;> rename_i hk
  · obtain ⟨-, rfl⟩ := intaPart_ok h
    exact .inr ⟨by simp [hk], rfl⟩
  · obtain ⟨-, -, -, rfl⟩ := iordPart_ok h
    exact .inr ⟨by simp [hk], rfl⟩
  · obtain ⟨-, -, -, rfl⟩ := iowrPart_ok h
    exact .inr ⟨by simp [hk], rfl⟩
  · obtain rfl := haltPart_ok h
    exact .inr ⟨by simp [hk], rfl⟩
  · obtain ⟨-, -, hp, ⟨hm, hq⟩ | ⟨hm, hq, hroom⟩⟩ := fetchPart_ok h
    · exact .inr ⟨by simp [hm], hq⟩
    · refine .inl ⟨hk, hm, by rw [hp]; exact hq, ?_⟩
      rw [hq, List.length_append]
      exact hroom
  · obtain ⟨-, rfl⟩ := memrdPart_ok h
    exact .inr ⟨by simp [hk], rfl⟩
  · obtain ⟨-, rfl⟩ := memwrPart_ok h
    exact .inr ⟨by simp [hk], rfl⟩
  · obtain rfl := passivePart_ok h
    exact .inr ⟨by simp [hk], rfl⟩

/-- No queue operation lengthens the queue (R211 to R214). -/
theorem queueEffect_length_le {op : QOp} {q q' : List Byte} {b b' : Option Byte}
    (h : queueEffect op q b = .ok (q', b')) : q'.length ≤ q.length := by
  unfold queueEffect at h
  split at h <;> cases h <;> simp

/-! The invariant. -/

theorem safe_iff (s : State) :
    s.safe = true ↔ s.mem.wf = true ∧ s.queue.length ≤ s.cfg.queueDepth
      ∧ s.history.all (Event.legal s.cfg.mode) = true
      ∧ s.history.foldl replayLock false = s.lockHeld ∧ lockRespected false s.history = true := by
  simp only [State.safe, State.queueWithin, State.historyLegal, State.locksRespected, Bool.and_eq_true,
    decide_eq_true_eq, beq_iff_eq, and_assoc]

/-- Safety speaks of five fields of the state only. -/
theorem safe_congr {s t : State} (hc : t.cfg = s.cfg) (hm : t.mem = s.mem) (hq : t.queue = s.queue)
    (hl : t.lockHeld = s.lockHeld) (hh : t.history = s.history) : t.safe = s.safe := by
  simp only [State.safe, State.queueWithin, State.historyLegal, State.locksRespected, hc, hm, hq, hl, hh]

theorem SameMachine.safe_eq {s s' : State} (h : SameMachine s s') : s'.safe = s.safe :=
  safe_congr h.cfg h.mem h.queue h.lockHeld h.history

@[simp] theorem finish_safe (s : State) (f : Finish) : (finish f s).safe = s.safe :=
  safe_congr (finish_cfg s f) (finish_mem s f) (finish_queue s f) (finish_lockHeld s f) (finish_history s f)

/-- OTHER's turn begins in a state as safe as before, with OTHER enabled (R202, R244). -/
theorem otherTurn_safe {s s' : State} {r : OtherReq} (h : otherTurn s = some (r, s')) :
    s'.safe = s.safe ∧ s'.otherEnabled = true := by
  obtain ⟨he, _, _, -, -, rfl⟩ := otherTurn_some h
  exact ⟨safe_congr rfl rfl rfl rfl rfl, he⟩

/-- What keeps a state safe when one event is appended to its history: the event can occur, leaves the lock the
history then shows, and is no cycle of OTHER under the lock. -/
structure AppendsSafely (s t : State) (e : Event) : Prop where
  cfg : t.cfg = s.cfg
  mem : t.mem.wf = true
  queue : t.queue.length ≤ s.cfg.queueDepth
  history : t.history = s.history ++ [e]
  legal : e.legal s.cfg.mode = true
  lock : replayLock s.lockHeld e = t.lockHeld
  respects : lockRespected s.lockHeld [e] = true

theorem safe_of_appendsSafely {s t : State} (e : Event) (hs : s.safe = true) (h : AppendsSafely s t e) :
    t.safe = true := by
  obtain ⟨-, -, hlegal, hlock, hrespects⟩ := (safe_iff s).mp hs
  refine (safe_iff t).mpr ⟨h.mem, h.cfg ▸ h.queue, ?_, ?_, ?_⟩
  · simp [h.history, h.cfg, List.all_append, hlegal, h.legal]
  · rw [h.history, List.foldl_append, hlock]
    exact h.lock
  · rw [h.history, lockRespected_append, hrespects, hlock, h.respects]
    rfl

section
variable {s t : State} (hs : s.safe = true)
include hs

theorem busCycle_safe {r : BusReq} (h : busCycle r s = .next t) : t.safe = true := by
  obtain ⟨p, hl, hp, rfl⟩ := busCycle_next h
  obtain ⟨hmem, hqueue, -⟩ := (safe_iff s).mp hs
  have hmem' : p.mem.wf = true := by
    rcases cyclePart_mem hp with ⟨-, -, hw⟩ | ⟨-, hw⟩
    · rw [hw]; exact writeLanes_wf _ _ _ hmem
    · rw [hw]; exact hmem
  have hqueue' : p.queue.length ≤ s.cfg.queueDepth := by
    rcases cyclePart_queue hp with ⟨-, -, -, hroom⟩ | ⟨-, hq⟩
    · exact hroom
    · rw [hq]; exact hqueue
  exact safe_of_appendsSafely (.cycle (p.pinRecord r s)) hs
    { cfg := rfl, mem := hmem', queue := hqueue', history := rfl, legal := pinRecord_legal hp
      lock := replayLock_cycle p hl, respects := rfl }

theorem queueOp_safe {op : QOp} (h : queueOp op s = .next t) : t.safe = true := by
  obtain ⟨hm, q, b, hq, rfl⟩ := queueOp_next h
  obtain ⟨hmem, hqueue, -⟩ := (safe_iff s).mp hs
  exact safe_of_appendsSafely (.queueOp op) hs
    { cfg := rfl, mem := hmem, queue := (queueEffect_length_le hq).trans hqueue, history := rfl
      legal := by simp [Event.legal, hm], lock := rfl, respects := rfl }

theorem lockPrefixOp_safe (h : lockPrefixOp s = .next t) : t.safe = true := by
  obtain ⟨-, rfl⟩ := lockPrefixOp_next h
  calc _ = s.safe := safe_congr rfl rfl rfl rfl rfl
    _ = true := hs

theorem lockEnd_safe (h : lockEnd s = .next t) : t.safe = true := by
  obtain ⟨hm, rfl⟩ := lockEnd_next h
  obtain ⟨hmem, hqueue, -⟩ := (safe_iff s).mp hs
  exact safe_of_appendsSafely .lockEnd hs
    { cfg := rfl, mem := hmem, queue := hqueue, history := rfl
      legal := by simp [Event.legal, hm], lock := rfl, respects := rfl }

/-- OTHER's cycle keeps the state safe because OTHER is enabled: in maximum mode, with no lock held (R202, R243). -/
theorem otherCycle_safe {r : OtherReq} (h : otherCycle r s = .next t) (he : s.otherEnabled = true) :
    t.safe = true := by
  simp only [State.otherEnabled, Bool.and_eq_true, beq_iff_eq, Bool.not_eq_true'] at he
  obtain ⟨⟨hm, -⟩, hfree⟩ := he
  obtain ⟨hmem, hqueue, -⟩ := (safe_iff s).mp hs
  obtain ⟨hf, hcases⟩ := otherCycle_next h
  have hlegal : ∀ w hi lo, (Event.other r.addr r.bheN w hi lo).legal s.cfg.mode = true := by
    simp [Event.legal, hm, hf]
  have hrespects : ∀ w hi lo, lockRespected s.lockHeld [.other r.addr r.bheN w hi lo] = true := by
    simp [lockRespected, hfree]
  rcases hcases with ⟨-, rfl⟩ | ⟨-, rfl⟩
  · exact safe_of_appendsSafely _ hs
      { cfg := rfl, mem := writeLanes_wf _ _ _ hmem, queue := hqueue, history := rfl
        legal := hlegal _ _ _, lock := rfl, respects := hrespects _ _ _ }
  · exact safe_of_appendsSafely _ hs
      { cfg := rfl, mem := hmem, queue := hqueue, history := rfl
        legal := hlegal _ _ _, lock := rfl, respects := hrespects _ _ _ }

theorem exec_safe {i : Instr} (h : exec i s = .next t) : t.safe = true := by
  rcases exec_next h with ⟨r, hcycle⟩ | ⟨op, hqueue⟩ | hlock
  · exact busCycle_safe hs hcycle
  · exact queueOp_safe hs hqueue
  · exact lockPrefixOp_safe hs hlock

end

/-- The initial state of any configuration is safe: nothing is in memory, the queue or the history (R42). -/
theorem initial_safe (c : Cfg) : (State.initial c).safe = true :=
  (safe_iff _).mpr ⟨rfl, Nat.zero_le _, rfl, rfl, rfl⟩

end Sys2Proof.Machine

open Sys2Proof Sys2Proof.Machine

/-- Settles O55: taking up an input and finishing a read touch nothing safety speaks of, and each operation appends
one safe event or, for LOCK, none. The invariant rests on the queue of log 23, the minimum-mode levels of log 19
and the PASSIVE record without an address of log 34. -/
theorem everyStepKeepsTheStateSafe : Obligations.EveryStepKeepsTheStateSafe := by
  intro s t hs h
  rcases step_next h with ⟨r, s', hturn, hother⟩ | ⟨s', hsame, hend⟩ | ⟨i, f, s', u, hsame, hexec, rfl⟩
  · obtain ⟨hsafe, henabled⟩ := otherTurn_safe hturn
    exact otherCycle_safe (hsafe.trans hs) hother henabled
  · exact lockEnd_safe (hsame.safe_eq.trans hs) hend
  · rw [finish_safe]
    exact exec_safe (hsame.safe_eq.trans hs) hexec

/-- Settles O56, by induction on the number of steps (`run_growsBy`). -/
theorem configurationIsFixedForARun : Obligations.ConfigurationIsFixedForARun :=
  fun n s t h => (run_growsBy n s t h).cfg

/-- Settles O57, by induction on the number of steps (`run_growsBy`). -/
theorem historyOnlyGrows : Obligations.HistoryOnlyGrows :=
  fun n s t h => (run_growsBy n s t h).history

/-- Settles O53: each default is read off the initial state, which is safe in every configuration. -/
theorem resetLeavesTheDefaults : Obligations.ResetLeavesTheDefaults :=
  ⟨rfl, rfl, rfl, rfl, rfl, rfl, rfl, rfl, rfl, fun c => ⟨rfl, initial_safe c⟩⟩

/-- Settles O54: the reset state is the initial state of one configuration. -/
theorem resetIsSafe : Obligations.ResetIsSafe := initial_safe resetCfg

end

section
/-! PROOFS. What an observer of the events alone rebuilds on every run (20_memory.md R80, R82): memory, what each read
returned, and the lock. -/

namespace Sys2Proof.Machine

open Stated

/-! The events a run adds to the history (R41). -/

theorem newEvents_of_history {s t : State} {es : List Event} (h : t.history = s.history ++ es) :
    newEvents s t = es := by
  simp [newEvents, h]

/-- `es` are the events from `s` to `t`, and `P s es t` holds of them. -/
def Emits (P : State → List Event → State → Prop) (s : State) (es : List Event) (t : State) : Prop :=
  t.history = s.history ++ es ∧ P s es t

/-- A relation between the ends of a run and its events holds when it holds of no events, of the events of one step,
and of two runs put together. -/
theorem run_newEvents {P : State → List Event → State → Prop} (nil : ∀ s, P s [] s)
    (append : ∀ {s s' t es fs}, P s es s' → P s' fs t → P s (es ++ fs) t)
    (step : ∀ {s t}, step s = .next t → ∃ es, Emits P s es t) (n : Nat) (s t : State)
    (h : Host.Core.run core n s = .next t) : P s (newEvents s t) t := by
  have hrun : ∃ es, Emits P s es t := by
    refine run_induction (motive := fun _ s t => ∃ es, Emits P s es t) ?zero ?succ n s t h
    case zero => exact fun s => ⟨[], (List.append_nil _).symm, nil s⟩
    case succ =>
      rintro - s s' t hstep ⟨fs, hfs, hP'⟩
      obtain ⟨es, hes, hP⟩ := step hstep
      exact ⟨es ++ fs, by rw [hfs, hes, List.append_assoc], append hP hP'⟩
  obtain ⟨es, hes, hP⟩ := hrun
  rwa [newEvents_of_history hes]

/-! What the pins of a cycle show (R160, R176; the minimum-mode levels are log 19's). -/

/-- In either mode the type pins show a FETCH and a MEMRD as a memory read, and no other cycle. -/
theorem typePins_memRead (m : Mode) (held : Bool) (d : Nat) (r : BusReq) :
    (typePins m held d r).strobes.memRead = (r.kind == .fetch || r.kind == .memrd) := by
  cases m <;> cases hk : r.kind <;>
    simp [typePins, maxPins, minModeControls, TypePins.strobes, Kind.code, hk]

/-- In either mode the type pins show a MEMWR as a memory write, and no other cycle. -/
theorem typePins_memWrite (m : Mode) (held : Bool) (d : Nat) (r : BusReq) :
    (typePins m held d r).strobes.memWrite = (r.kind == .memwr) := by
  cases m <;> cases hk : r.kind <;>
    simp [typePins, maxPins, minModeControls, TypePins.strobes, Kind.code, hk]

@[simp] theorem pinRecord_address (p : CyclePart) (r : BusReq) (s : State) :
    (p.pinRecord r s).address = p.address := rfl
@[simp] theorem pinRecord_dHi (p : CyclePart) (r : BusReq) (s : State) : (p.pinRecord r s).dHi = p.lanes.hi := rfl
@[simp] theorem pinRecord_dLo (p : CyclePart) (r : BusReq) (s : State) : (p.pinRecord r s).dLo = p.lanes.lo := rfl

@[simp] theorem pinRecord_memRead (p : CyclePart) (r : BusReq) (s : State) :
    (p.pinRecord r s).strobes.memRead = (r.kind == .fetch || r.kind == .memrd) :=
  typePins_memRead _ _ _ r

@[simp] theorem pinRecord_memWrite (p : CyclePart) (r : BusReq) (s : State) :
    (p.pinRecord r s).strobes.memWrite = (r.kind == .memwr) :=
  typePins_memWrite _ _ _ r

/-- A FETCH and a MEMRD put the request's address on the pins, show memory's bytes there and leave memory (R166,
R167). -/
theorem cyclePart_memoryRead {r : BusReq} {s : State} {p : CyclePart} (hk : r.kind = .fetch ∨ r.kind = .memrd)
    (h : cyclePart r s = .ok p) :
    p.address = some (addressPhase r) ∧ p.lanes = readLanes s.memSpace r.addr r.bheN ∧ p.mem = s.mem := by
  rcases hk with hk | hk <;> simp only [cyclePart, hk] at h
  · obtain ⟨-, -, hp, -⟩ := fetchPart_ok h
    rw [hp]
    exact ⟨rfl, rfl, rfl⟩
  · obtain ⟨-, rfl⟩ := memrdPart_ok h
    exact ⟨rfl, rfl, rfl⟩

/-- A MEMWR puts the request's address on the pins, drives both lanes and stores by the lane rule (R168). -/
theorem cyclePart_memoryWrite {r : BusReq} {s : State} {p : CyclePart} (hk : r.kind = .memwr)
    (h : cyclePart r s = .ok p) :
    p.address = some (addressPhase r) ∧ p.lanes = drivenLanes r.wdata
      ∧ p.mem = writeLanes s.mem r.addr r.bheN r.wdata := by
  simp only [cyclePart, hk] at h
  obtain ⟨-, rfl⟩ := memwrPart_ok h
  exact ⟨rfl, rfl, rfl⟩

/-! Replaying one event (R80). -/

/-- A write of both driven lanes is replayed as the write it was. -/
@[simp] theorem replayWrite_driven (m : Memory) (a : Addr) (bheN : Level) (w : Word16) :
    replayWrite m a bheN (some (hiByte w)) (some (loByte w)) = writeLanes m a bheN w := by
  simp [replayWrite]

/-- The lanes a read of memory shows agree with that memory. -/
@[simp] theorem lanesAgree_readLanes (s : State) (a : Addr) (bheN : Level) :
    lanesAgree s.mem a bheN (readLanes s.memSpace a bheN).hi (readLanes s.memSpace a bheN).lo = true :=
  beq_self_eq_true (readLanes s.memSpace a bheN)

/-- The record of a cycle tells what the cycle did to memory. -/
theorem replayMem_cycle {r : BusReq} {s : State} {p : CyclePart} (h : cyclePart r s = .ok p) :
    replayMem s.mem (.cycle (p.pinRecord r s)) = p.mem := by
  rcases cyclePart_mem h with ⟨hk, -, -⟩ | ⟨hk, hmem⟩
  · obtain ⟨haddr, hlanes, hmem⟩ := cyclePart_memoryWrite hk h
    simp [replayMem, haddr, hlanes, hmem, hk, drivenLanes, addressPhase]
  · simp only [replayMem, pinRecord_address, pinRecord_memWrite, hmem]
    split <;> simp [hk]

/-- The record of a read shows memory's bytes. -/
theorem readAgrees_cycle {r : BusReq} {s : State} {p : CyclePart} (h : cyclePart r s = .ok p) :
    readAgrees s.mem (.cycle (p.pinRecord r s)) = true := by
  by_cases hk : r.kind = .fetch ∨ r.kind = .memrd
  · obtain ⟨haddr, hlanes, -⟩ := cyclePart_memoryRead hk h
    simp [readAgrees, haddr, hlanes, addressPhase]
  · simp only [not_or] at hk
    simp only [readAgrees, pinRecord_address, pinRecord_memRead]
    split <;> simp [hk]

/-! Replaying a run of events. -/

theorem readsSeeLatestWrites_append (es fs : List Event) (m : Memory) :
    readsSeeLatestWrites m (es ++ fs)
      = (readsSeeLatestWrites m es && readsSeeLatestWrites (es.foldl replayMem m) fs) := by
  induction es generalizing m with
  | nil => rfl
  | cons e es ih => simp only [List.cons_append, readsSeeLatestWrites, List.foldl_cons, ih, Bool.and_assoc]

/-- From the events alone an observer of the start has the memory and the lock at the end, each read shows what the
writes before it left, and OTHER has no cycle under the lock (R80, R82). -/
structure Replays (s : State) (es : List Event) (t : State) : Prop where
  mem : t.mem = es.foldl replayMem s.mem
  reads : readsSeeLatestWrites s.mem es = true
  lock : t.lockHeld = es.foldl replayLock s.lockHeld
  respects : lockRespected s.lockHeld es = true

theorem Replays.nil (s : State) : Replays s [] s := ⟨rfl, rfl, rfl, rfl⟩

theorem Replays.append {s s' t : State} {es fs : List Event} (h : Replays s es s') (h' : Replays s' fs t) :
    Replays s (es ++ fs) t where
  mem := by rw [h'.mem, h.mem, List.foldl_append]
  reads := by rw [readsSeeLatestWrites_append, h.reads, ← h.mem, h'.reads]; rfl
  lock := by rw [h'.lock, h.lock, List.foldl_append]
  respects := by rw [lockRespected_append, h.respects, ← h.lock, h'.respects]; rfl

/-- Of its two ends a replay sees memory and the lock only. -/
theorem Replays.congr {s s' t t' : State} {es : List Event} (h : Replays s' es t') (hm : s'.mem = s.mem)
    (hl : s'.lockHeld = s.lockHeld) (hm' : t.mem = t'.mem) (hl' : t.lockHeld = t'.lockHeld) : Replays s es t := by
  obtain ⟨hmem, hreads, hlock, hresp⟩ := h
  rw [hm] at hmem hreads
  rw [hl] at hlock hresp
  exact ⟨hm'.trans hmem, hreads, hl'.trans hlock, hresp⟩

/-- One event that is read for what it did. -/
theorem Replays.single {s t : State} {e : Event} (hmem : replayMem s.mem e = t.mem)
    (hreads : readAgrees s.mem e = true) (hlock : replayLock s.lockHeld e = t.lockHeld)
    (hresp : lockRespected s.lockHeld [e] = true) : Replays s [e] t :=
  ⟨hmem.symm, by simp [readsSeeLatestWrites, hreads], hlock.symm, hresp⟩

/-! Each operation's events, replayed. -/

section
variable {s t : State}

theorem busCycle_replays {r : BusReq} (h : busCycle r s = .next t) : ∃ es, Emits Replays s es t := by
  obtain ⟨p, hl, hp, rfl⟩ := busCycle_next h
  exact ⟨_, rfl, .single (replayMem_cycle hp) (readAgrees_cycle hp) (replayLock_cycle p hl) rfl⟩

theorem queueOp_replays {op : QOp} (h : queueOp op s = .next t) : ∃ es, Emits Replays s es t := by
  obtain ⟨-, q, b, -, rfl⟩ := queueOp_next h
  exact ⟨[.queueOp op], rfl, .single rfl rfl rfl rfl⟩

theorem lockPrefixOp_replays (h : lockPrefixOp s = .next t) : ∃ es, Emits Replays s es t := by
  obtain ⟨-, rfl⟩ := lockPrefixOp_next h
  exact ⟨[], (List.append_nil _).symm, rfl, rfl, rfl, rfl⟩

theorem lockEnd_replays (h : lockEnd s = .next t) : ∃ es, Emits Replays s es t := by
  obtain ⟨-, rfl⟩ := lockEnd_next h
  exact ⟨[.lockEnd], rfl, .single rfl rfl rfl rfl⟩

/-- OTHER's cycle stands where no lock is held, since OTHER is enabled (R202). -/
theorem otherCycle_replays {r : OtherReq} (h : otherCycle r s = .next t) (he : s.otherEnabled = true) :
    ∃ es, Emits Replays s es t := by
  have hfree : s.lockHeld = false := by
    simp only [State.otherEnabled, Bool.and_eq_true, Bool.not_eq_true'] at he
    exact he.2
  obtain ⟨-, ⟨-, rfl⟩ | ⟨-, rfl⟩⟩ := otherCycle_next h
  · exact ⟨_, rfl, .single (replayWrite_driven _ _ _ _) rfl rfl (by simp [lockRespected, hfree])⟩
  · exact ⟨_, rfl, .single rfl (lanesAgree_readLanes _ _ _) rfl (by simp [lockRespected, hfree])⟩

theorem exec_replays {i : Instr} (h : exec i s = .next t) : ∃ es, Emits Replays s es t := by
  rcases exec_next h with ⟨r, hcycle⟩ | ⟨op, hqueue⟩ | hlock
  · exact busCycle_replays hcycle
  · exact queueOp_replays hqueue
  · exact lockPrefixOp_replays hlock

/-- Taking up an input and finishing a read change nothing a replay sees. -/
theorem step_replays (h : step s = .next t) : ∃ es, Emits Replays s es t := by
  rcases step_next h with ⟨r, s', hturn, hother⟩ | ⟨s', hsame, hend⟩ | ⟨i, f, s', u, hsame, hexec, rfl⟩
  · obtain ⟨henabled, _, _, -, -, rfl⟩ := otherTurn_some hturn
    obtain ⟨es, hes, hrep⟩ := otherCycle_replays hother henabled
    exact ⟨es, hes, hrep.congr rfl rfl rfl rfl⟩
  · obtain ⟨es, hes, hrep⟩ := lockEnd_replays hend
    exact ⟨es, hsame.history ▸ hes, hrep.congr hsame.mem hsame.lockHeld rfl rfl⟩
  · obtain ⟨es, hes, hrep⟩ := exec_replays hexec
    refine ⟨es, ?_, hrep.congr hsame.mem hsame.lockHeld (finish_mem u f) (finish_lockHeld u f)⟩
    rw [finish_history, hes, hsame.history]

end

/-- R80, R82: the events of every run are replayed to its end. -/
theorem run_replays (n : Nat) (s t : State) (h : Host.Core.run core n s = .next t) : Replays s (newEvents s t) t :=
  run_newEvents .nil .append step_replays n s t h

end Sys2Proof.Machine

open Sys2Proof.Machine

/-- Settles O58: each step's event, replayed, is what the step did to memory and, for a read, what it showed
(`run_replays`). In minimum mode the replay reads the control levels of log 19. -/
theorem everyReadSeesTheLatestWrite : Obligations.EveryReadSeesTheLatestWrite :=
  fun n s t h => ⟨(run_replays n s t h).reads, (run_replays n s t h).mem⟩

/-- Settles O60: each event moves the lock as its pins show, and OTHER is enabled only where it is not held
(`run_replays`). -/
theorem noOtherCycleInsideALockedSpan : Obligations.NoOtherCycleInsideALockedSpan :=
  fun n s t h => ⟨(run_replays n s t h).respects, (run_replays n s t h).lock⟩

end

section
/-! PROOFS. Which cycles touch memory (20_memory.md R61), and what a read finds after a write and a fetch before one
(R71, R80, R83). -/

namespace Sys2Proof.Machine

open Stated

/-! The lanes of a read, as the statements write them (R141). -/

theorem readLanes_memSpace (s : State) (a : Addr) (bheN : Level) :
    readLanes s.memSpace a bheN = ⟨readHi s a bheN, readLo s a⟩ := by
  simp [readLanes, readHi, readLo, hiSelected, loSelected, State.memSpace]

/-! When the data-moving kinds complete, and with what (R163, R164, R166 to R168). -/

/-- What a read of the given space adds to the frame of R161; `queue` is the queue afterwards. -/
def readPart (r : BusReq) (s : State) (space : Addr → Byte) (queue : List Byte) : CyclePart :=
  { address := some (addressPhase r), status := some (statusPhase r.ifFlag r.seg.code)
    lanes := readLanes space r.addr r.bheN, rdata := (readLanes space r.addr r.bheN).rdata
    mem := s.mem, queue := queue }

/-- What a write adds to the frame of R161; `mem` is memory afterwards. -/
def writePart (r : BusReq) (s : State) (mem : Memory) : CyclePart :=
  { address := some (addressPhase r), status := some (statusPhase r.ifFlag r.seg.code)
    lanes := drivenLanes r.wdata, rdata := 0, mem := mem, queue := s.queue }

section
variable {r : BusReq} {s : State} (hf : formOf r.bheN r.addr ≠ .noForm)
include hf

theorem cyclePart_memrd (hk : r.kind = .memrd) : cyclePart r s = .ok (readPart r s s.memSpace s.queue) := by
  simp [cyclePart, hk, memrdPart, tagAccepted, hf, readPart]

theorem cyclePart_memwr (hk : r.kind = .memwr) :
    cyclePart r s = .ok (writePart r s (writeLanes s.mem r.addr r.bheN r.wdata)) := by
  simp [cyclePart, hk, memwrPart, tagAccepted, hf, writePart]

theorem cyclePart_iord (hk : r.kind = .iord) (hseg : r.seg = .csNone) (hport : portInRange s.cfg r.addr = true) :
    cyclePart r s = .ok (readPart r s (ioSpace s.draws) s.queue) := by
  simp [cyclePart, hk, iordPart, tagAccepted, hseg, hport, hf, readPart]

theorem cyclePart_iowr (hk : r.kind = .iowr) (hseg : r.seg = .csNone) (hport : portInRange s.cfg r.addr = true) :
    cyclePart r s = .ok (writePart r s s.mem) := by
  simp [cyclePart, hk, iowrPart, tagAccepted, hseg, hport, hf, writePart]

/-- A fetch leaves the queue in minimum mode, and needs room in it in maximum mode (R166; log 23). -/
theorem cyclePart_fetch (hk : r.kind = .fetch) (hseg : r.seg = .csNone)
    (hroom : s.cfg.mode = .max →
      s.queue.length + (readLanes s.memSpace r.addr r.bheN).fetched.length ≤ s.cfg.queueDepth) :
    cyclePart r s = .ok (readPart r s s.memSpace
      (if s.cfg.mode = .max then s.queue ++ (readLanes s.memSpace r.addr r.bheN).fetched else s.queue)) := by
  cases hm : s.cfg.mode with
  | min => simp [cyclePart, hk, fetchPart, tagAccepted, hseg, hf, hm, readPart]
  | max => simp [cyclePart, hk, fetchPart, tagAccepted, hseg, hf, hm, readPart, Nat.not_lt.mpr (hroom hm)]

end

/-- A request with no lock, or in maximum mode, is not refused for its lock (R203). -/
theorem lock_not_refused {m : Mode} {lock : Bool} (h : m = .max ∨ lock = false) : (lock && m == .min) = false := by
  rcases h with rfl | rfl
  · exact Bool.and_false lock
  · rfl

@[simp] theorem lastRecord_closeCycle (s : State) (r : BusReq) (p : CyclePart) :
    lastRecord (s.closeCycle r p) = some (p.pinRecord r s) := by
  simp [lastRecord]

/-! A cycle of a kind that is no memory cycle does the same whatever memory holds (R61). -/

theorem cyclePart_withMem {r : BusReq} {s : State} {p : CyclePart} (m : Memory) (hfetch : r.kind ≠ .fetch)
    (hmemrd : r.kind ≠ .memrd) (hmemwr : r.kind ≠ .memwr) (h : cyclePart r s = .ok p) :
    cyclePart r { s with mem := m } = .ok { p with mem := m } := by
  cases hk : r.kind <;> simp only [cyclePart, hk] at h ⊢
  case inta =>
    obtain ⟨hseg, rfl⟩ := intaPart_ok h
    simp [intaPart, tagAccepted, hseg]
  case iord =>
    obtain ⟨hseg, hport, hf, rfl⟩ := iordPart_ok h
    simp [iordPart, tagAccepted, hseg, hport, hf]
  case iowr =>
    obtain ⟨hseg, hport, hf, rfl⟩ := iowrPart_ok h
    simp [iowrPart, tagAccepted, hseg, hport, hf]
  case halt =>
    obtain rfl := haltPart_ok h
    rfl
  case passive =>
    obtain rfl := passivePart_ok h
    rfl
  case fetch => exact absurd hk hfetch
  case memrd => exact absurd hk hmemrd
  case memwr => exact absurd hk hmemwr

/-! What an instruction is, in any memory. -/

/-- The request a bus-cycle code runs: the one on the pins with the code's kind, tag or form (R108; logs 2, 28). -/
def cycleRequest (r : BusReq) : Instr → BusReq
  | .inta => r.withKind .inta
  | .iord => r.withKind .iord
  | .iowr => r.withKind .iowr
  | .halt => r.withKind .halt
  | .fetch => r.withKind .fetch
  | .memrd => r.withKind .memrd
  | .memwr => r.withKind .memwr
  | .passive => r.withKind .passive
  | .es => r.withSeg .es
  | .ss => r.withSeg .ss
  | .csNone => r.withSeg .csNone
  | .ds => r.withSeg .ds
  | .word => r.withForm .word
  | .highByte => r.withForm .highByte
  | .lowByte => r.withForm .lowByte
  | .noForm => r.withForm .noForm
  | .qIdle | .qFirst | .qEmpty | .qSubseq | .lock => r

theorem exec_eq_busCycle {i : Instr} (s : State) (hi : isCycleCode i = true) :
    exec i s = busCycle (cycleRequest s.req i) s := by
  cases i <;> cases hi <;> rfl

theorem cycleRequest_kind {i : Instr} (s : State) (hi : isCycleCode i = true) :
    (cycleRequest s.req i).kind = performedKind i s := by
  cases i <;> cases hi <;> rfl

@[simp] theorem cycleRequest_wdata (i : Instr) (r : BusReq) : (cycleRequest r i).wdata = r.wdata := by
  cases i <;> rfl

/-- A queue operation leaves memory and does the same whatever it holds (R210). -/
theorem queueOp_withMem {op : QOp} {s t : State} (h : queueOp op s = .next t) :
    t.mem = s.mem ∧ ∀ m : Memory, queueOp op { s with mem := m } = .next { t with mem := m } := by
  obtain ⟨hmode, q, b, hq, rfl⟩ := queueOp_next h
  exact ⟨rfl, fun m => by simp [queueOp, hmode, hq]⟩

/-- So does LOCK (R201). -/
theorem lockPrefixOp_withMem {s t : State} (h : lockPrefixOp s = .next t) :
    t.mem = s.mem ∧ ∀ m : Memory, lockPrefixOp { s with mem := m } = .next { t with mem := m } := by
  obtain ⟨hmode, rfl⟩ := lockPrefixOp_next h
  exact ⟨rfl, fun m => by simp [lockPrefixOp, hmode]⟩

/-- The instructions that are no bus cycle leave memory and do the same whatever it holds. -/
theorem exec_withMem_of_noCycle {i : Instr} {s t : State} (hi : isCycleCode i = false) (h : exec i s = .next t) :
    t.mem = s.mem ∧ ∀ m : Memory, exec i { s with mem := m } = .next { t with mem := m } := by
  cases i
  case lock => exact lockPrefixOp_withMem h
  case qIdle => exact queueOp_withMem (op := .qIdle) h
  case qFirst => exact queueOp_withMem (op := .qFirst) h
  case qEmpty => exact queueOp_withMem (op := .qEmpty) h
  case qSubseq => exact queueOp_withMem (op := .qSubseq) h
  all_goals cases hi

theorem performedKind_of_noCycle {i : Instr} (s : State) (hi : isCycleCode i = false) :
    performedKind i s = .passive := by
  cases i <;> cases hi <;> rfl

/-- A cycle that is no memory cycle leaves memory and does the same whatever it holds. -/
theorem busCycle_withMem {r : BusReq} {s t : State} (hfetch : r.kind ≠ .fetch) (hmemrd : r.kind ≠ .memrd)
    (hmemwr : r.kind ≠ .memwr) (h : busCycle r s = .next t) :
    t.mem = s.mem ∧ ∀ m : Memory, busCycle r { s with mem := m } = .next { t with mem := m } := by
  obtain ⟨p, hl, hp, rfl⟩ := busCycle_next h
  refine ⟨?_, fun m => busCycle_of_part (s := { s with mem := m }) hl (cyclePart_withMem m hfetch hmemrd hmemwr hp)⟩
  rcases cyclePart_mem hp with ⟨hk, -⟩ | ⟨-, hmem⟩
  · exact absurd hk hmemwr
  · exact hmem

end Sys2Proof.Machine

open Sys2Proof Sys2Proof.Machine Sys2Proof.Stated

/-- Settles O39: an instruction that is no bus cycle leaves memory; a bus cycle is taken by the kind it performs. -/
theorem onlyMemoryCyclesTouchMemory : Obligations.OnlyMemoryCyclesTouchMemory := by
  intro i s t h
  cases hi : isCycleCode i with
  | false => simp [performedKind_of_noCycle s hi, exec_withMem_of_noCycle hi h]
  | true =>
    have hcycle := exec_eq_busCycle s hi ▸ h
    rw [← cycleRequest_kind s hi, ← cycleRequest_wdata i s.req]
    refine ⟨fun hread => ?read, fun hwrite hwf => ?write, fun hfetch hmemrd hmemwr => ?other⟩
    case read =>
      obtain ⟨p, -, hp, rfl⟩ := busCycle_next hcycle
      obtain ⟨haddr, hlanes, hmem⟩ := cyclePart_memoryRead hread hp
      rw [readLanes_memSpace] at hlanes
      exact ⟨hmem, _, _, lastRecord_closeCycle _ _ _, haddr, congrArg Lanes.hi hlanes, congrArg Lanes.lo hlanes⟩
    case write =>
      obtain ⟨p, -, hp, rfl⟩ := busCycle_next hcycle
      obtain ⟨haddr, -, hmem⟩ := cyclePart_memoryWrite hwrite hp
      refine ⟨_, _, lastRecord_closeCycle _ _ _, haddr, fun hhi => ?_, fun hlo => ?_, fun x hx => ?_⟩
      · rw [closeCycle_mem, hmem]
        exact writeLanes_read_hi hwf (congrArg not hhi)
      · rw [closeCycle_mem, hmem]
        exact writeLanes_read_lo hwf (congrArg not hlo)
      · rw [closeCycle_mem, hmem]
        exact writeLanes_read_other hx
    case other =>
      obtain ⟨hmem, hany⟩ := busCycle_withMem hfetch hmemrd hmemwr hcycle
      exact ⟨hmem, fun m => (exec_eq_busCycle _ hi).trans (hany m)⟩

/-- Settles O40: the read finds the form the write had, so it completes, and its lanes are the written memory's. -/
theorem readAfterWriteReturnsTheWrittenBytes : Obligations.ReadAfterWriteReturnsTheWrittenBytes := by
  intro s t hlock hwf h
  obtain ⟨p, hl, hp, rfl⟩ := busCycle_next (r := s.req.withKind .memwr) h
  obtain ⟨-, -, hmem⟩ := cyclePart_memoryWrite rfl hp
  have hf : formOf s.req.bheN s.req.addr ≠ .noForm := (memwrPart_ok hp).1
  have hread := cyclePart_memrd (r := s.req.withKind .memrd)
    (s := s.closeCycle (s.req.withKind .memwr) p) hf rfl
  refine ⟨_, _, busCycle_of_part hl hread, lastRecord_closeCycle _ _ _, ?hi, ?lo⟩
  case hi =>
    show (readLanes _ s.req.addr s.req.bheN).hi = _
    rw [readLanes_memSpace, readHi, closeCycle_mem, hmem]
    split
    case isTrue hsel => exact congrArg some (writeLanes_read_hi hwf (congrArg not hsel))
    case isFalse => rfl
  case lo =>
    show (readLanes _ s.req.addr s.req.bheN).lo = _
    rw [readLanes_memSpace, readLo, closeCycle_mem, hmem]
    split
    case isTrue hsel => exact congrArg some (writeLanes_read_lo hwf (congrArg not hsel))
    case isFalse => rfl

end

section
/-! PROOFS. One bus cycle of the step, and one cycle of an access primitive (20_memory.md R70, R72 to R74). -/

namespace Sys2Proof.Machine

open Stated

/-! A step that is one bus cycle (R13, R161). -/

theorem exec_kindInstr (k : Kind) (s : State) : exec k.instr s = busCycle (s.req.withKind k) s := by
  cases k <;> rfl

/-- A request taken up on the 8086's turn runs as its bus cycle, and its read data is finished. -/
theorem step_of_cycle {s : State} {r : BusReq} {f : Finish} {rest : List EnvInput} {p : CyclePart} (hb : BiuTurn s)
    (hfetch : fetchInput { s with turns := s.turns.tail } = presentRequest r f rest { s with turns := s.turns.tail })
    (hlock : s.cfg.mode = .max ∨ r.lock = false) (hp : cyclePart r s = .ok p) :
    step s = .next (finish f
      ({ s with turns := s.turns.tail, req := r, pending := rest }.closeCycle r p)) := by
  have hcycle := busCycle_of_part (s := { s with turns := s.turns.tail, req := r, pending := rest })
    (lock_not_refused hlock) hp
  have hexec : exec r.kind.instr { s with turns := s.turns.tail, req := r, pending := rest }
      = .next ({ s with turns := s.turns.tail, req := r, pending := rest }.closeCycle r p) :=
    (exec_kindInstr r.kind _).trans hcycle
  simp only [step_of_biuTurn hb, biuStep, hfetch, presentRequest, decode_kindWord, hexec, finishOutcome]

/-- A step at the front of a run (R13). -/
theorem run_of_step {n : Nat} {s s' : State} (h : step s = .next s') :
    Host.Core.run core (n + 1) s = Host.Core.run core n s' := by
  have hcore : core.step s = .next s' := h
  simp only [Host.Core.run, hcore]

/-! Lanes and bytes of the three forms (R140, R141). -/

/-- The form at an odd address with BHE# = 0 is HIGH_BYTE: the odd byte on the high lane. -/
theorem readLanes_odd {a : Addr} (h : a0 a = true) (space : Addr → Byte) :
    readLanes space a false = ⟨some (space a), none⟩ := by
  simp [readLanes, hiSelected, loSelected, h, hiAddr_of_odd h]

/-- The form at an even address with BHE# = 1 is LOW_BYTE: the even byte on the low lane. -/
theorem readLanes_even {a : Addr} (h : a0 a = false) (space : Addr → Byte) :
    readLanes space a true = ⟨none, some (space a)⟩ := by
  simp [readLanes, hiSelected, loSelected, h, loAddr_of_even h]

/-- The form at an even address with BHE# = 0 is WORD: the next byte on the high lane, the even one on the low. -/
theorem readLanes_word {a : Addr} (h : a0 a = false) (space : Addr → Byte) :
    readLanes space a false = ⟨some (space (a + 1)), some (space a)⟩ := by
  simp [readLanes, hiSelected, loSelected, h, loAddr_of_even h, hiAddr_of_even h]

/-- The bytes a write puts, by the lane rule: the selected banks' addresses and what their lanes carry. -/
def laneBytes (a : Addr) (bheN : Level) (w : Word16) : List (Addr × Byte) :=
  (if loSelected a then [(loAddr a, loByte w)] else []) ++ (if hiSelected bheN then [(hiAddr a, hiByte w)] else [])

theorem laneBytes_odd {a : Addr} (h : a0 a = true) (w : Word16) : laneBytes a false w = [(a, hiByte w)] := by
  simp [laneBytes, hiSelected, loSelected, h, hiAddr_of_odd h]

theorem laneBytes_even {a : Addr} (h : a0 a = false) (w : Word16) : laneBytes a true w = [(a, loByte w)] := by
  simp [laneBytes, hiSelected, loSelected, h, loAddr_of_even h]

theorem laneBytes_word {a : Addr} (h : a0 a = false) (w : Word16) :
    laneBytes a false w = [(a, loByte w), (a + 1, hiByte w)] := by
  simp [laneBytes, hiSelected, loSelected, h, loAddr_of_even h, hiAddr_of_even h]

theorem mem_laneBytes {a : Addr} {bheN : Level} {w : Word16} {c : Addr × Byte} :
    c ∈ laneBytes a bheN w ↔ (loSelected a = true ∧ c = (loAddr a, loByte w))
      ∨ (hiSelected bheN = true ∧ c = (hiAddr a, hiByte w)) := by
  simp [laneBytes]

/-- After a write memory holds the bytes of the selected lanes (R141). -/
theorem writeLanes_read_laneBytes {m : Memory} {a : Addr} {bheN : Level} {w : Word16} (hwf : m.wf = true)
    {c : Addr × Byte} (hc : c ∈ laneBytes a bheN w) : (writeLanes m a bheN w).read c.1.toNat = c.2 := by
  rcases mem_laneBytes.mp hc with ⟨hsel, rfl⟩ | ⟨hsel, rfl⟩
  · exact writeLanes_read_lo hwf hsel
  · exact writeLanes_read_hi hwf hsel

/-- And every other byte as before (R85). -/
theorem writeLanes_read_off_laneBytes {m : Memory} {a : Addr} {bheN : Level} {w : Word16} {y : Nat}
    (hy : ∀ c ∈ laneBytes a bheN w, y ≠ c.1.toNat) : (writeLanes m a bheN w).read y = m.read y := by
  refine writeLanes_read_other fun hstored => ?_
  rcases List.mem_append.mp hstored with hhi | hlo
  · obtain ⟨hsel, hy'⟩ : hiSelected bheN = true ∧ y = (hiAddr a).toNat := by simpa using hhi
    exact hy _ (mem_laneBytes.mpr (.inr ⟨hsel, rfl⟩)) hy'
  · obtain ⟨hsel, hy'⟩ : loSelected a = true ∧ y = (loAddr a).toNat := by simpa using hlo
    exact hy _ (mem_laneBytes.mpr (.inl ⟨hsel, rfl⟩)) hy'

/-- A port below `2 ^ IO_ADDR_BITS` is in range (R163). -/
theorem portInRange_of_lt {c : Cfg} {a : Addr} (h : a.toNat < 2 ^ c.ioAddrBits) : portInRange c a = true := by
  simp [portInRange, Nat.shiftRight_eq_div_pow, Nat.div_eq_of_lt h]

/-! One cycle of a primitive (R72 to R74). -/

section
variable {s : State} {x : Access} {a : Addr} {bheN : Level} {w : Word16} {n : Nat}

@[simp] theorem request_kind : (x.request a bheN w).kind = x.kind.kind := rfl
@[simp] theorem request_addr : (x.request a bheN w).addr = a := rfl
@[simp] theorem request_bheN : (x.request a bheN w).bheN = bheN := rfl
@[simp] theorem request_seg : (x.request a bheN w).seg = x.tag := rfl
@[simp] theorem request_ifFlag : (x.request a bheN w).ifFlag = x.ifFlag := rfl
@[simp] theorem request_lock : (x.request a bheN w).lock = x.lock := rfl
@[simp] theorem request_wdata : (x.request a bheN w).wdata = w := rfl

/-- A primitive's tag is the one the statements name. -/
theorem accessSeg_eq_tag (x : Access) : accessSeg x = x.tag := by
  cases hk : x.kind <;> simp [accessSeg, Access.tag, hk]

theorem tag_of_port (hk : x.kind = .ioRead ∨ x.kind = .ioWrite) : x.tag = .csNone := by
  rcases hk with hk | hk <;> simp [Access.tag, hk]

theorem tag_of_fetch (hk : x.kind = .fetch) : x.tag = x.seg := by simp [Access.tag, hk]

/-- A port primitive finds IO_ENV's bytes, any other memory's. -/
theorem accessByte_of_port (hk : x.kind = .ioRead) : accessByte s x s.draws = ioSpace s.draws := by
  funext p
  simp [accessByte, ioSpace, hk]

theorem accessByte_of_memory (hk : x.kind = .memRead ∨ x.kind = .fetch) (d : Nat) :
    accessByte s x d = s.memSpace := by
  funext p
  rcases hk with hk | hk <;> simp [accessByte, State.memSpace, hk]

/-- The type pins of a primitive's cycle are the model's (R160, R176, R200). -/
theorem typePins_request (s : State) (x : Access) (a : Addr) (bheN : Level) (w : Word16) :
    typePins s.cfg.mode s.lockHeld s.draws (x.request a bheN w)
      = accessPins { s with req := { s.req with ifFlag := x.ifFlag, lock := x.lock } } x.kind := by
  cases hk : x.kind <;> cases hm : s.cfg.mode <;>
    simp [typePins, maxPins, minModeControls, accessPins, shown, lockLevel, AccessKind.kind, Kind.code, hk, hm]

theorem pinRecord_request {p : CyclePart} (haddr : p.address = some ⟨a, bheN⟩)
    (hstatus : p.status = some (statusPhase x.ifFlag x.tag.code)) :
    p.pinRecord (x.request a bheN w) s = accessRecord s x a bheN p.lanes.hi p.lanes.lo := by
  simp only [CyclePart.pinRecord, accessRecord, haddr, hstatus, typePins_request, accessSeg_eq_tag]
  rfl

/-- Any state after a primitive's cycle is as the statements say, whatever is done with the read data. -/
theorem afterAccess_closeCycle {p : CyclePart} (f : Finish) (rest : List EnvInput)
    (haddr : p.address = some ⟨a, bheN⟩)
    (hstatus : p.status = some (statusPhase x.ifFlag x.tag.code)) :
    AfterAccess s
      (finish f ({ s with turns := s.turns.tail, req := x.request a bheN w, pending := rest }.closeCycle
        (x.request a bheN w) p))
      x rest [accessRecord s x a bheN p.lanes.hi p.lanes.lo] p.queue
      (finish f { s with rdata := p.rdata }).result (finish f { s with rdata := p.rdata }).half := by
  have hcycle : (x.request a bheN w).kind ≠ .passive := by cases hk : x.kind <;> simp [AccessKind.kind, hk]
  obtain ⟨hheld, hpre, -⟩ := lockAfter_cycle hcycle s.lockHeld s.lockPrefix
  have hrecord := pinRecord_request (s := { s with turns := s.turns.tail, req := x.request a bheN w, pending := rest })
    (w := w) haddr hstatus
  simp only [AfterAccess, State.closeCycle, hheld, hpre, hrecord]
  cases f <;> rfl

/-- A primitive's cycle at `a` that moves `n` bytes is not refused for its lock (R203), its port (R163, R164), its
tag (R138) or the queue (R166). -/
structure CycleAccepted (s : State) (x : Access) (a : Addr) (n : Nat) : Prop where
  lock : s.cfg.mode = .max ∨ x.lock = false
  port : x.kind = .ioRead ∨ x.kind = .ioWrite → portInRange s.cfg a = true
  seg : x.kind = .fetch → x.seg = .csNone
  room : x.kind = .fetch → s.cfg.mode = .max → s.queue.length + n ≤ s.cfg.queueDepth

/-- What a primitive of `n` bytes needs gives what its cycles need. -/
theorem cycleAccepted_of_accepted {m : Nat} (h : Accepted s x n) (hlock : s.cfg.mode = .max ∨ x.lock = false)
    (hm : m ≤ n) (ha : a.toNat < x.addr.toNat + n) : CycleAccepted s x a m where
  lock := hlock
  port hk := portInRange_of_lt (lt_of_lt_of_le ha (h.1 hk))
  seg hk := (h.2 hk).1
  room hk hmax := by
    have hroom := (h.2 hk).2 hmax
    omega

/-- A read primitive's cycle reads the primitive's space by the lane rule, and a fetch appends what it read. -/
theorem cyclePart_accessRead {l : Lanes} (hr : Reads x) (hf : formOf bheN a ≠ .noForm)
    (hl : readLanes (accessByte s x s.draws) a bheN = l) (h : CycleAccepted s x a l.fetched.length) :
    cyclePart (x.request a bheN w) s
      = .ok (readPart (x.request a bheN w) s (accessByte s x s.draws) (accessQueue s x l.fetched)) := by
  subst hl
  rcases hr with hk | hk | hk
  · rw [accessByte_of_memory (.inl hk)]
    simpa [accessQueue, hk] using cyclePart_memrd (r := x.request a bheN w) (s := s) hf (by simp [AccessKind.kind, hk])
  · rw [accessByte_of_port hk]
    simpa [accessQueue, hk] using cyclePart_iord (r := x.request a bheN w) (s := s) hf
      (by simp [AccessKind.kind, hk]) (tag_of_port (.inl hk)) (h.port (.inl hk))
  · have hroom := h.room hk
    rw [accessByte_of_memory (.inr hk)] at hroom ⊢
    simpa [accessQueue, hk] using cyclePart_fetch (r := x.request a bheN w) (s := s) hf
      (by simp [AccessKind.kind, hk]) ((tag_of_fetch hk).trans (h.seg hk)) hroom

/-- Memory after a write primitive's cycle: the ports' bytes go to IO_ENV (R38, R164, R168). -/
def accessMem (s : State) (x : Access) (a : Addr) (bheN : Level) (w : Word16) : Memory :=
  if x.kind = .memWrite then writeLanes s.mem a bheN w else s.mem

theorem accessMem_wf (hwf : s.mem.wf = true) : (accessMem s x a bheN w).wf = true := by
  unfold accessMem
  split
  · exact writeLanes_wf _ _ _ hwf
  · exact hwf

/-- A write primitive's cycle drives both lanes and stores by the lane rule, or leaves memory to its ports. -/
theorem cyclePart_accessWrite (hw : Writes x) (hf : formOf bheN a ≠ .noForm) (h : CycleAccepted s x a n) :
    cyclePart (x.request a bheN w) s = .ok (writePart (x.request a bheN w) s (accessMem s x a bheN w)) := by
  rcases hw with hk | hk
  · simpa [accessMem, hk] using cyclePart_memwr (r := x.request a bheN w) (s := s) hf (by simp [AccessKind.kind, hk])
  · simpa [accessMem, hk] using cyclePart_iowr (r := x.request a bheN w) (s := s) hf
      (by simp [AccessKind.kind, hk]) (tag_of_port (.inr hk)) (h.port (.inr hk))

/-- IO_ENV takes from a port write's record the bytes of its selected lanes (R164). -/
theorem portWrites_accessRecord (hk : x.kind = .ioWrite) :
    (accessRecord s x a bheN (some (hiByte w)) (some (loByte w))).portWrites = laneBytes a bheN w := by
  have hpins : (accessRecord s x a bheN (some (hiByte w)) (some (loByte w))).strobes.ioWrite = true := by
    cases hm : s.cfg.mode <;> simp [PinRecord.strobes, accessRecord, accessPins, shown, TypePins.strobes, hk, hm]
  rw [PinRecord.portWrites, if_pos hpins]
  simp [accessRecord, laneBytes]

/-- A write primitive's cycle has put the bytes of its selected lanes. -/
theorem stored_accessMem {t : State} (hwf : s.mem.wf = true) (hmem : t.mem = accessMem s x a bheN w) :
    Stored s t x [accessRecord s x a bheN (some (hiByte w)) (some (loByte w))] (laneBytes a bheN w) := by
  refine ⟨fun hk => ?memory, fun hk => ?ports⟩
  case memory =>
    rw [hmem, accessMem, if_pos hk]
    exact ⟨fun c hc => writeLanes_read_laneBytes hwf hc, fun y hy => writeLanes_read_off_laneBytes hy⟩
  case ports => simp [hmem, accessMem, hk, portWrites_accessRecord hk]

end

/-! One cycle of a primitive as a step. -/

section
variable {s : State} {x : Access} {a : Addr} {bheN : Level} {w : Word16} {f : Finish} {rest : List EnvInput} {n : Nat}
  (hb : BiuTurn s) (hf : formOf bheN a ≠ .noForm)
  (hfetch : fetchInput { s with turns := s.turns.tail }
    = presentRequest (x.request a bheN w) f rest { s with turns := s.turns.tail })
include hb hf hfetch

theorem step_accessRead {l : Lanes} (hr : Reads x) (hl : readLanes (accessByte s x s.draws) a bheN = l)
    (h : CycleAccepted s x a l.fetched.length) :
    ∃ t, step s = .next t ∧ t.mem = s.mem
      ∧ AfterAccess s t x rest [accessRecord s x a bheN l.hi l.lo] (accessQueue s x l.fetched)
          (finish f { s with rdata := l.rdata }).result (finish f { s with rdata := l.rdata }).half := by
  refine ⟨_, step_of_cycle hb hfetch h.lock (cyclePart_accessRead hr hf hl h), finish_mem _ f, ?_⟩
  subst hl
  exact afterAccess_closeCycle f rest rfl rfl

theorem step_accessWrite (hw : Writes x) (hnothing : f = .nothing) (hwf : s.mem.wf = true)
    (h : CycleAccepted s x a n) :
    ∃ t, step s = .next t ∧ t.mem.wf = true
      ∧ AfterAccess s t x rest [accessRecord s x a bheN (some (hiByte w)) (some (loByte w))] s.queue s.result s.half
      ∧ Stored s t x [accessRecord s x a bheN (some (hiByte w)) (some (loByte w))] (laneBytes a bheN w) := by
  subst hnothing
  exact ⟨_, step_of_cycle hb hfetch h.lock (cyclePart_accessWrite hw hf h), accessMem_wf hwf,
    afterAccess_closeCycle .nothing rest rfl rfl, stored_accessMem hwf rfl⟩

end

end Sys2Proof.Machine
end

section
/-! PROOFS. The access primitives whole (20_memory.md R70, R72 to R74): which cycles each takes, and what they leave. -/

namespace Sys2Proof.Machine

open Stated

/-! The first cycle of a primitive, by its width and address (R72, R73). -/

section
variable {s : State} {x : Access} {rest : List EnvInput}

/-- What is taken up for a primitive whose first request exists. -/
theorem fetchInput_of_first {r : BusReq} (hp : s.pending = .access x :: rest)
    (h : x.first s.cfg (Config.idleLane s.draws) = .ok r) :
    fetchInput s = presentRequest r x.finishFirst (if x.oddWord then .accessRest x :: rest else rest) s := by
  simp only [fetchInput_of_pending_access hp, presentAccess, h]

/-- A word at an odd address, split: the low byte on the high lane, and the second cycle is the next input. -/
theorem fetchInput_oddWord (hp : s.pending = .access x :: rest) (hwide : x.wide = true) (hodd : a0 x.addr = true)
    (hsplit : s.cfg.splitOddWord = true) (htop : x.addr ≠ 0xFFFFF#20) :
    fetchInput s = presentRequest (x.request x.addr false (joinBytes (loByte x.wdata) (Config.idleLane s.draws)))
      x.finishFirst (.accessRest x :: rest) s := by
  have hword : x.oddWord = true := by simp [Access.oddWord, hwide, hodd]
  rw [fetchInput_of_first hp (by simp only [Access.first, hword, hsplit, htop, Bool.not_true]; rfl), if_pos hword]

theorem fetchInput_accessRest (hp : s.pending = .accessRest x :: rest) :
    fetchInput s = presentRequest (x.request (x.addr + 1) true (joinBytes (Config.idleLane s.draws) (hiByte x.wdata)))
      x.finishSecond rest s := by
  simp only [fetchInput, hp, Access.second]

/-- A word at an even address: both lanes. -/
theorem fetchInput_evenWord (hp : s.pending = .access x :: rest) (hwide : x.wide = true) (heven : a0 x.addr = false) :
    fetchInput s = presentRequest (x.request x.addr false x.wdata) x.finishFirst rest s := by
  have hword : x.oddWord = false := by simp [Access.oddWord, heven]
  rw [fetchInput_of_first hp (by simp only [Access.first, hword, hwide]; rfl), hword]
  rfl

/-- A byte at an odd address: the high lane. -/
theorem fetchInput_oddByte (hp : s.pending = .access x :: rest) (hwide : x.wide = false) (hodd : a0 x.addr = true) :
    fetchInput s = presentRequest (x.request x.addr false (joinBytes (loByte x.wdata) (Config.idleLane s.draws)))
      x.finishFirst rest s := by
  have hword : x.oddWord = false := by simp [Access.oddWord, hwide]
  rw [fetchInput_of_first hp (by simp only [Access.first, hword, hwide, hodd]; rfl), hword]
  rfl

/-- A byte at an even address: the low lane. -/
theorem fetchInput_evenByte (hp : s.pending = .access x :: rest) (hwide : x.wide = false) (heven : a0 x.addr = false) :
    fetchInput s = presentRequest (x.request x.addr true (joinBytes (Config.idleLane s.draws) (loByte x.wdata)))
      x.finishFirst rest s := by
  have hword : x.oddWord = false := by simp [Access.oddWord, hwide]
  rw [fetchInput_of_first hp (by simp only [Access.first, hword, hwide, heven]; rfl), hword]
  rfl

/-- A primitive refused before its first cycle is the step's refusal (R72). -/
theorem step_of_first_refused {e : Refusal} (hb : BiuTurn s) (hp : s.pending = .access x :: rest)
    (h : x.first s.cfg (Config.idleLane s.draws) = .error e) : step s = .refused e := by
  have hfetch : fetchInput { s with turns := s.turns.tail } = .refused e := by
    rw [fetchInput_of_pending_access (s := { s with turns := s.turns.tail }) hp]
    simp only [presentAccess, h]
  simp only [step_of_biuTurn hb, biuStep, hfetch]

end

/-! What is done with the read data (R72). -/

/-- A read primitive's first cycle is finished by the width and the address. -/
theorem finishFirst_of_reads {x : Access} (hr : Reads x) :
    x.finishFirst = if x.oddWord then .firstHalf else if x.wide then .whole
      else if a0 x.addr then .highByte else .lowByte := by
  rcases hr with hk | hk | hk <;> simp [Access.finishFirst, hk]

theorem finishSecond_of_reads {x : Access} (hr : Reads x) : x.finishSecond = .secondHalf := by
  rcases hr with hk | hk | hk <;> simp [Access.finishSecond, hk]

/-- A write primitive returns nothing. -/
theorem finish_of_writes {x : Access} (hw : Writes x) : x.finishFirst = .nothing ∧ x.finishSecond = .nothing := by
  rcases hw with hk | hk <;> simp [Access.finishFirst, Access.finishSecond, hk]

/-! Two cycles put together. -/

theorem formOf_bheN_low (a : Addr) : formOf false a ≠ .noForm := by simp [formOf_eq_noForm]

theorem formOf_even {a : Addr} (h : a0 a = false) (bheN : Level) : formOf bheN a ≠ .noForm := by
  simp [formOf_eq_noForm, h]

/-- The address after an odd one is even. -/
theorem a0_succ_of_odd {a : Addr} (h : a0 a = true) : a0 (a + 1) = false := by
  simp only [a0, BitVec.getLsbD, Nat.testBit_zero, decide_eq_true_eq, decide_eq_false_iff_not] at h ⊢
  bv_omega

/-- An address below the top one has its successor one higher. -/
theorem toNat_succ_of_ne_top {a : Addr} (h : a ≠ 0xFFFFF#20) : (a + 1).toNat = a.toNat + 1 := by
  bv_omega

end Sys2Proof.Machine

namespace Sys2Proof.Stated

open Machine

section
variable {s s' t : State} {x : Access} {rest rest' : List EnvInput} {ps qs : List PinRecord} {q q' : List Byte}
  {v v' : Word16} {b b' : Byte}

/-- The records of a primitive's cycles do not tell two states of one mode apart. -/
theorem accessRecord_congr (h : s'.cfg = s.cfg) (a : Addr) (bheN : Level) (hi lo : Option Byte) :
    accessRecord s' x a bheN hi lo = accessRecord s x a bheN hi lo := by
  cases hk : x.kind <;> simp [accessRecord, status, accessPins, shown, hk, h]

theorem AfterAccess.cfg (h : AfterAccess s s' x rest ps q v b) : s'.cfg = s.cfg := by rw [h]
theorem AfterAccess.pending (h : AfterAccess s s' x rest ps q v b) : s'.pending = rest := by rw [h]
theorem AfterAccess.turns (h : AfterAccess s s' x rest ps q v b) : s'.turns = s.turns.tail := by rw [h]
theorem AfterAccess.queue (h : AfterAccess s s' x rest ps q v b) : s'.queue = q := by rw [h]
theorem AfterAccess.result (h : AfterAccess s s' x rest ps q v b) : s'.result = v := by rw [h]
theorem AfterAccess.half (h : AfterAccess s s' x rest ps q v b) : s'.half = b := by rw [h]
theorem AfterAccess.draws (h : AfterAccess s s' x rest ps q v b) : s'.draws = s.draws + ps.length := by rw [h]

/-- The cycles of one primitive, one after the other, with no turn of OTHER's left. -/
theorem AfterAccess.trans (hturns : s.turns = []) (h : AfterAccess s s' x rest ps q v b)
    (h' : AfterAccess s' t x rest' qs q' v' b') : AfterAccess s t x rest' (ps ++ qs) q' v' b' := by
  unfold AfterAccess at h h' ⊢
  rw [h'.trans (by rw [h])]
  simp [hturns, Nat.add_assoc]

theorem accessByte_congr (h : s'.mem = s.mem) (d : Nat) : accessByte s' x d = accessByte s x d := by
  funext a
  cases hk : x.kind <;> simp [accessByte, hk, h]

theorem accessQueue_nil (s : State) (x : Access) : accessQueue s x [] = s.queue := by simp [accessQueue]

/-- The queue after two cycles holds the bytes of both, in order. -/
theorem AfterAccess.accessQueue_append {bs : List Byte} (h : AfterAccess s s' x rest ps (accessQueue s x bs) v b)
    (cs : List Byte) : accessQueue s' x cs = accessQueue s x (bs ++ cs) := by
  simp only [accessQueue, h.queue, h.cfg]
  split <;> simp

/-- The next cycle is not refused when there is room for its bytes after the first cycle's. -/
theorem AfterAccess.cycleAccepted {bs : List Byte} {a : Addr} {n : Nat}
    (h : AfterAccess s s' x rest ps (accessQueue s x bs) v b) (hacc : CycleAccepted s x a (bs.length + n)) :
    CycleAccepted s' x a n where
  lock := h.cfg ▸ hacc.lock
  port := h.cfg ▸ hacc.port
  seg := hacc.seg
  room hk hmax := by
    rw [h.cfg] at hmax
    have hroom := hacc.room hk hmax
    rw [h.queue, h.cfg, accessQueue, if_pos ⟨hk, hmax⟩, List.length_append]
    omega

/-- The bytes two write cycles put, when the second touches none of the first's. -/
theorem Stored.trans {bs cs : List (Addr × Byte)} (h : Stored s s' x ps bs) (h' : Stored s' t x qs cs)
    (hapart : ∀ d ∈ bs, ∀ c ∈ cs, d.1.toNat ≠ c.1.toNat) : Stored s t x (ps ++ qs) (bs ++ cs) := by
  refine ⟨fun hk => ⟨fun d hd => ?bytes, fun y hy => ?others⟩, fun hk => ?ports⟩
  case bytes =>
    obtain ⟨hfirst, -⟩ := h.1 hk
    obtain ⟨hsecond, hkept⟩ := h'.1 hk
    rcases List.mem_append.mp hd with hd | hd
    · rw [hkept _ (hapart d hd), hfirst d hd]
    · exact hsecond d hd
  case others =>
    rw [(h'.1 hk).2 y fun c hc => hy c (List.mem_append_right _ hc),
      (h.1 hk).2 y fun c hc => hy c (List.mem_append_left _ hc)]
  case ports =>
    obtain ⟨hmem, hbytes⟩ := h.2 hk
    obtain ⟨hmem', hbytes'⟩ := h'.2 hk
    exact ⟨hmem'.trans hmem, by simp [hbytes, hbytes']⟩

end

end Sys2Proof.Stated

open Sys2Proof Sys2Proof.Machine Sys2Proof.Stated

/-- Settles O43: the primitive has no first request, under the name R72's order gives it (log 25). -/
theorem oddWordRefusals : Obligations.OddWordRefusals := by
  intro s x rest hwide hodd hb hp
  have hword : x.oddWord = true := by simp [Access.oddWord, hwide, hodd]
  refine ⟨fun hsplit => ?unsplit, fun hsplit htop => ?top⟩
  case unsplit => exact step_of_first_refused hb hp (by simp [Access.first, hword, hsplit])
  case top => exact step_of_first_refused hb hp (by simp [Access.first, hword, hsplit, htop])

/-- Settles O44: each width and parity has one first request, and its cycle is `step_accessRead`'s or
`step_accessWrite`'s. -/
theorem unsplitAccessesTakeOneCycle : Obligations.UnsplitAccessesTakeOneCycle := by
  intro s x rest hlock hb hp
  have hp' : { s with turns := s.turns.tail }.pending = .access x :: rest := hp
  refine ⟨?readByte, ?readWord, ?writeByte, ?writeWord⟩
  case readByte =>
    rintro hr hwide hacc b rfl
    have hcycle : CycleAccepted s x x.addr 1 := cycleAccepted_of_accepted hacc hlock le_rfl (by omega)
    cases h0 : a0 x.addr with
    | true =>
      obtain ⟨t, hstep, hmem, hafter⟩ := step_accessRead hb (formOf_bheN_low x.addr)
        (fetchInput_oddByte hp' hwide h0) hr (readLanes_odd h0 _) hcycle
      exact ⟨t, hstep, hmem, by simpa [finishFirst_of_reads hr, Access.oddWord, hwide, h0, finish, Lanes.rdata,
        Lanes.fetched] using hafter⟩
    | false =>
      obtain ⟨t, hstep, hmem, hafter⟩ := step_accessRead hb (formOf_even h0 true)
        (fetchInput_evenByte hp' hwide h0) hr (readLanes_even h0 _) hcycle
      exact ⟨t, hstep, hmem, by simpa [finishFirst_of_reads hr, Access.oddWord, hwide, h0, finish, Lanes.rdata,
        Lanes.fetched] using hafter⟩
  case readWord =>
    rintro hr hwide h0 hacc lo hi rfl rfl
    obtain ⟨t, hstep, hmem, hafter⟩ := step_accessRead hb (formOf_bheN_low x.addr)
      (fetchInput_evenWord hp' hwide h0) hr (readLanes_word h0 _)
      (cycleAccepted_of_accepted hacc hlock le_rfl (by omega))
    exact ⟨t, hstep, hmem, by simpa [finishFirst_of_reads hr, Access.oddWord, hwide, h0, finish, Lanes.rdata,
      Lanes.fetched] using hafter⟩
  case writeByte =>
    intro hw hwide hacc hwf
    have hcycle : CycleAccepted s x x.addr 1 := cycleAccepted_of_accepted hacc hlock le_rfl (by omega)
    obtain ⟨hnothing, -⟩ := finish_of_writes hw
    cases h0 : a0 x.addr with
    | true =>
      obtain ⟨t, hstep, -, hafter, hstored⟩ := step_accessWrite hb (formOf_bheN_low x.addr)
        (fetchInput_oddByte hp' hwide h0) hw hnothing hwf hcycle
      rw [laneBytes_odd h0] at hstored
      rw [hiByte_joinBytes, loByte_joinBytes] at hafter hstored
      exact ⟨t, _, _, hstep, rfl, hafter, hstored⟩
    | false =>
      obtain ⟨t, hstep, -, hafter, hstored⟩ := step_accessWrite hb (formOf_even h0 true)
        (fetchInput_evenByte hp' hwide h0) hw hnothing hwf hcycle
      rw [laneBytes_even h0] at hstored
      rw [hiByte_joinBytes, loByte_joinBytes] at hafter hstored
      exact ⟨t, _, _, hstep, rfl, hafter, hstored⟩
  case writeWord =>
    intro hw hwide h0 hacc hwf
    obtain ⟨t, hstep, -, hafter, hstored⟩ := step_accessWrite hb (formOf_bheN_low x.addr)
      (fetchInput_evenWord hp' hwide h0) hw (finish_of_writes hw).1 hwf
      (cycleAccepted_of_accepted hacc hlock (le_refl 2) (by omega))
    rw [laneBytes_word h0] at hstored
    exact ⟨t, _, hstep, rfl, hafter, hstored⟩

/-- Settles O41: HIGH_BYTE at the address, then LOW_BYTE at the next (`step_accessRead` twice); the second cycle finds
memory and the configuration as they were, and the queue with the first byte. -/
theorem splitWordReadJoinsTwoCycles : Obligations.SplitWordReadJoinsTwoCycles := by
  rintro s x lo hi hr hwide h0 htop hsplit hlock hacc hturns hp rfl rfl
  have hsucc := toNat_succ_of_ne_top htop
  have h1 := a0_succ_of_odd h0
  obtain ⟨s', hstep, hmem, hafter⟩ := step_accessRead (s := s) (.inl hturns) (formOf_bheN_low x.addr)
    (fetchInput_oddWord hp hwide h0 hsplit htop) hr (readLanes_odd h0 _)
    (cycleAccepted_of_accepted hacc hlock one_le_two (by omega))
  have hacc' : CycleAccepted s' x (x.addr + 1) 1 :=
    hafter.cycleAccepted (cycleAccepted_of_accepted hacc hlock (le_refl 2) (by omega))
  obtain ⟨t, hstep', hmem', hafter'⟩ := step_accessRead (.inl (by rw [hafter.turns, hturns]; rfl))
    (formOf_even h1 true) (fetchInput_accessRest hafter.pending) hr (readLanes_even h1 _) hacc'
  have hboth := hafter.trans hturns hafter'
  rw [hafter.accessQueue_append, accessRecord_congr hafter.cfg, accessByte_congr hmem, hafter.draws] at hboth
  refine ⟨t, by rw [run_of_step hstep, run_of_step hstep']; rfl, hmem'.trans hmem, ?_⟩
  simpa [finishFirst_of_reads hr, finishSecond_of_reads hr, Access.oddWord, hwide, h0, finish, Lanes.rdata,
    Lanes.fetched, hafter.half] using hboth

/-- Settles O42: the same two cycles, each putting one byte (`step_accessWrite` twice), and neither the other's. -/
theorem splitWordWriteStoresTwoBytes : Obligations.SplitWordWriteStoresTwoBytes := by
  intro s x hw hwide h0 htop hsplit hlock hacc hwf hturns hp
  obtain ⟨hnothing, hnothing'⟩ := finish_of_writes hw
  have hsucc := toNat_succ_of_ne_top htop
  have h1 := a0_succ_of_odd h0
  obtain ⟨s', hstep, hwf', hafter, hstored⟩ := step_accessWrite (s := s) (.inl hturns) (formOf_bheN_low x.addr)
    (fetchInput_oddWord hp hwide h0 hsplit htop) hw hnothing hwf
    (cycleAccepted_of_accepted hacc hlock one_le_two (by omega))
  have hacc' : CycleAccepted s' x (x.addr + 1) 2 := by
    rw [← accessQueue_nil s x] at hafter
    exact hafter.cycleAccepted (cycleAccepted_of_accepted hacc hlock (le_refl 2) (by omega))
  obtain ⟨t, hstep', -, hafter', hstored'⟩ := step_accessWrite (.inl (by rw [hafter.turns, hturns]; rfl))
    (formOf_even h1 true) (fetchInput_accessRest hafter.pending) hw hnothing' hwf' hacc'
  have hboth := hafter.trans hturns hafter'
  rw [accessRecord_congr hafter.cfg] at hboth hstored'
  rw [hafter.queue, hafter.result, hafter.half] at hboth
  rw [laneBytes_odd h0] at hstored
  rw [laneBytes_even h1] at hstored'
  have hbytes := hstored.trans hstored' (by simp; omega)
  simp only [hiByte_joinBytes, loByte_joinBytes] at hboth hbytes
  exact ⟨t, _, _, _, _, by rw [run_of_step hstep, run_of_step hstep']; rfl, rfl, rfl, hboth, hbytes⟩

end

section
/-! PROOFS. A byte fetched before a write to its address (20_memory.md R83; the queue is log 23's). -/

namespace Sys2Proof.Machine

open Stated

/-- No even address is the top one. -/
theorem toNat_succ_of_even {a : Addr} (h : a0 a = false) : (a + 1).toNat = a.toNat + 1 := by
  refine toNat_succ_of_ne_top ?_
  rintro rfl
  exact absurd h (by decide)

/-- What a read appends to the queue: the byte at the address, and the next one when the form is WORD (R166). -/
theorem fetched_readLanes {s : State} {a : Addr} {bheN : Level} (hsel : bheN = false ∨ a0 a = false) :
    (readLanes s.memSpace a bheN).fetched
      = s.mem.read a.toNat :: if bheN = false ∧ a0 a = false then [s.mem.read (a.toNat + 1)] else [] := by
  cases h0 : a0 a with
  | true =>
    obtain rfl : bheN = false := by simpa [h0] using hsel
    simp [readLanes_odd h0, Lanes.fetched, State.memSpace]
  | false =>
    cases bheN with
    | true => simp [readLanes_even h0, Lanes.fetched, State.memSpace]
    | false =>
      rw [readLanes_word h0, ← toNat_succ_of_even h0, if_pos ⟨rfl, rfl⟩]
      rfl

/-- A whole request handed over on the 8086's turn runs as its cycle, and what comes after stays handed over. -/
theorem step_of_pending_cycle {s : State} {r : BusReq} {rest : List EnvInput} {p : CyclePart} (hb : BiuTurn s)
    (hp : s.pending = .cycle r :: rest) (hlock : s.cfg.mode = .max ∨ r.lock = false)
    (hpart : cyclePart r s = .ok p) :
    ∃ t, step s = .next t ∧ t.cfg = s.cfg ∧ t.mem = p.mem ∧ t.queue = p.queue ∧ t.pending = rest
      ∧ t.turns = s.turns.tail :=
  ⟨_, step_of_cycle hb (fetchInput_of_pending_cycle hp) hlock hpart, rfl, rfl, rfl, rfl, rfl⟩

/-- Q_FIRST takes the oldest byte (R212). -/
theorem queueOp_qFirst {s : State} {b : Byte} {bs : List Byte} (hmode : s.cfg.mode = .max) (hq : s.queue = b :: bs) :
    queueOp .qFirst s = .next { s with queue := bs, taken := some b, history := s.history ++ [.queueOp .qFirst] } := by
  simp [queueOp, hmode, hq, queueEffect]

end Sys2Proof.Machine

open Sys2Proof Sys2Proof.Machine Sys2Proof.Stated

/-- Settles O45: the fetch puts the bytes memory then held in the queue, the write leaves the queue, and Q_FIRST takes
the first of them. -/
theorem fetchedByteSurvivesALaterWrite : Obligations.FetchedByteSurvivesALaterWrite := by
  intro s f w hmode hempty hdepth hturns hkind hseg hsel hw hp
  have hform : formOf f.bheN f.addr ≠ .noForm := by
    rcases hsel with h | h <;> simp [formOf_eq_noForm, h]
  have hbytes := fetched_readLanes (s := s) hsel
  have hroom : s.queue.length + (readLanes s.memSpace f.addr f.bheN).fetched.length ≤ s.cfg.queueDepth := by
    rw [hempty, hbytes]
    split <;> simp <;> omega
  obtain ⟨s₁, hfetch, hcfg₁, -, hqueue₁, hpending₁, hturns₁⟩ := step_of_pending_cycle
    (.inl hturns) hp (.inl hmode) (cyclePart_fetch hform hkind hseg fun _ => hroom)
  have hmode₁ : s₁.cfg.mode = .max := by rw [hcfg₁, hmode]
  have hform' : formOf w.bheN w.addr ≠ .noForm := by rw [hw]; exact hform
  obtain ⟨s₂, hwrite, hcfg₂, -, hqueue₂, hpending₂, hturns₂⟩ := step_of_pending_cycle
    (.inl (by rw [hturns₁, hturns]; rfl)) hpending₁ (.inl hmode₁) (cyclePart_memwr hform' (by rw [hw]))
  have hqueue : s₂.queue = s.mem.read f.addr.toNat
      :: if f.bheN = false ∧ a0 f.addr = false then [s.mem.read (f.addr.toNat + 1)] else [] := by
    calc s₂.queue = s₁.queue := hqueue₂
      _ = s.queue ++ (readLanes s.memSpace f.addr f.bheN).fetched := by rw [hqueue₁, if_pos hmode]; rfl
      _ = _ := by rw [hempty, hbytes, List.nil_append]
  have htake : step s₂ = exec .qFirst { s₂ with turns := s₂.turns.tail, pending := [] } := by
    rw [step_of_biuTurn (.inl (by rw [hturns₂, hturns₁, hturns]; rfl))]
    exact biuStep_of_code (fetchInput_of_pending_code hpending₂) rfl
  have htaken := htake.trans (queueOp_qFirst (hcfg₂ ▸ hmode₁) hqueue)
  exact ⟨_, by rw [run_of_step hfetch, run_of_step hwrite, run_of_step htaken]; rfl, rfl, rfl⟩

end

section
/-! PROOFS. The decoder and the encoder (30_encoding.md R107, R109, R113). The well-formed codes are exactly the codes
of instructions, and the decoder answers an instruction for no other. -/

namespace Sys2Proof

/-! Each group's levels and meanings are in bijection (R134, R140, R160, R210). -/

@[simp] theorem KindCode.code_kind (c : KindCode) : c.kind.code = c := by
  obtain ⟨_ | _, _ | _, _ | _⟩ := c <;> rfl

@[simp] theorem TagCode.code_seg (c : TagCode) : c.seg.code = c := by
  obtain ⟨_ | _, _ | _⟩ := c <;> rfl

@[simp] theorem FormCode.code_form (c : FormCode) : c.form.code = c := by
  obtain ⟨_ | _, _ | _⟩ := c <;> rfl

@[simp] theorem QueueCode.code_op (c : QueueCode) : c.op.code = c := by
  obtain ⟨_ | _, _ | _⟩ := c <;> rfl

/-! The encoder, group by group. -/

theorem encode_kindInstr (k : Kind) : encode k.instr = k.word := by cases k <;> rfl
theorem encode_segInstr (t : Seg) : encode t.instr = t.word := by cases t <;> rfl
theorem encode_formInstr (f : Form) : encode f.instr = f.codeWord := by cases f <;> rfl
theorem encode_qopInstr (q : QOp) : encode q.instr = q.word := by cases q <;> rfl

/-! Every instruction's code word is well formed and reads back. -/

theorem roundTrip (i : Instr) : Laws.RoundTrip.Statement i :=
  match i with
  | .inta => Laws.RoundTrip.inta
  | .iord => Laws.RoundTrip.iord
  | .iowr => Laws.RoundTrip.iowr
  | .halt => Laws.RoundTrip.halt
  | .fetch => Laws.RoundTrip.fetch
  | .memrd => Laws.RoundTrip.memrd
  | .memwr => Laws.RoundTrip.memwr
  | .passive => Laws.RoundTrip.passive
  | .es => Laws.RoundTrip.es
  | .ss => Laws.RoundTrip.ss
  | .csNone => Laws.RoundTrip.csNone
  | .ds => Laws.RoundTrip.ds
  | .word => Laws.RoundTrip.word
  | .highByte => Laws.RoundTrip.highByte
  | .lowByte => Laws.RoundTrip.lowByte
  | .noForm => Laws.RoundTrip.noForm
  | .qIdle => Laws.RoundTrip.qIdle
  | .qFirst => Laws.RoundTrip.qFirst
  | .qEmpty => Laws.RoundTrip.qEmpty
  | .qSubseq => Laws.RoundTrip.qSubseq
  | .lock => Laws.RoundTrip.lock

@[simp] theorem decode_encode (i : Instr) : decode (encode i) = .ok i := (roundTrip i).2

/-! The well-formed codes. -/

theorem CodeWord.wf_iff {w : CodeWord} :
    w.wf = true ↔ w.bits.length = w.format.width ∧ (w.format = .prefixByte → w.bits = lockByte) := by
  simp [CodeWord.wf, CodeWord.widthOk, imp_iff_not_or]

/-- R107, R109: every value of a pin format is some instruction's code; LOCK's byte is one too. -/
theorem exists_eq_encode_of_wf {w : CodeWord} (hw : w.wf = true) : ∃ i, w = encode i := by
  obtain ⟨f, bs⟩ := w
  obtain ⟨hwidth, hbyte⟩ := CodeWord.wf_iff.1 hw
  cases f with
  | s2s1s0 =>
    obtain ⟨a, b, c, rfl⟩ := List.length_eq_three.1 hwidth
    exact ⟨(KindCode.kind ⟨a, b, c⟩).instr, by rw [encode_kindInstr, Kind.word, KindCode.code_kind]⟩
  | s4s3 =>
    obtain ⟨a, b, rfl⟩ := List.length_eq_two.1 hwidth
    exact ⟨(TagCode.seg ⟨a, b⟩).instr, by rw [encode_segInstr, Seg.word, TagCode.code_seg]⟩
  | bhea0 =>
    obtain ⟨a, b, rfl⟩ := List.length_eq_two.1 hwidth
    exact ⟨(FormCode.form ⟨a, b⟩).instr, by rw [encode_formInstr, Form.codeWord, FormCode.code_form]⟩
  | qs1qs0 =>
    obtain ⟨a, b, rfl⟩ := List.length_eq_two.1 hwidth
    exact ⟨(QueueCode.op ⟨a, b⟩).instr, by rw [encode_qopInstr, QOp.word, QueueCode.code_op]⟩
  | prefixByte => exact ⟨.lock, congrArg (CodeWord.mk .prefixByte) (hbyte rfl)⟩

/-- The decoder rejects a code whose width is not its format's, and any PREFIX8 byte but LOCK's (R109, R110). -/
theorem wf_of_decode {w : CodeWord} {i : Instr} (h : decode w = .ok i) : w.wf = true := by
  obtain ⟨f, bs⟩ := w
  cases f with
  | s2s1s0 | s4s3 | bhea0 | qs1qs0 =>
    simp only [decode] at h
    split at h
    · rfl
    · cases h
  | prefixByte =>
    simp only [decode] at h
    split_ifs at h with hwidth hbyte
    exact CodeWord.wf_iff.2 ⟨hwidth, fun _ => hbyte⟩

end Sys2Proof

open Sys2Proof

/-- Settles O1: a code that decodes is well formed, so it is some instruction's code, and that instruction is the one
its code reads back as. -/
theorem codeWordDecodesExactlyToItsInstruction : Obligations.CodeWordDecodesExactlyToItsInstruction := by
  intro w i
  constructor
  · intro hd
    obtain ⟨j, rfl⟩ := exists_eq_encode_of_wf (wf_of_decode hd)
    obtain rfl : j = i := by simpa using hd
    rfl
  · rintro rfl
    exact decode_encode i

/-- Settles O2: each row is its instruction's code word written out, and a value of a pin format is well formed as soon
as it has the format's width. -/
theorem allTwentyOneCodesDecode : Obligations.AllTwentyOneCodesDecode := by
  refine ⟨?kinds, ?tags, ?forms, ?queueOps, decode_encode .lock, ?total⟩
  case kinds =>
    exact ⟨decode_encode .inta, decode_encode .iord, decode_encode .iowr, decode_encode .halt,
      decode_encode .fetch, decode_encode .memrd, decode_encode .memwr, decode_encode .passive⟩
  case tags => exact ⟨decode_encode .es, decode_encode .ss, decode_encode .csNone, decode_encode .ds⟩
  case forms =>
    exact ⟨decode_encode .word, decode_encode .highByte, decode_encode .lowByte, decode_encode .noForm⟩
  case queueOps =>
    exact ⟨decode_encode .qIdle, decode_encode .qFirst, decode_encode .qEmpty, decode_encode .qSubseq⟩
  case total =>
    intro f bs hf hwidth
    have hw : CodeWord.wf ⟨f, bs⟩ = true := CodeWord.wf_iff.2 ⟨hwidth, fun h => absurd h hf⟩
    obtain ⟨i, hi⟩ := exists_eq_encode_of_wf hw
    exact ⟨i, hi ▸ decode_encode i⟩

end

section
/-! PROOFS. What the pins of a completed cycle carry (40_address_status_bhe.md R130 to R134, R140 to R145): the phases,
and the request an observer of them reads back (R246). -/

namespace Sys2Proof

/-! The codes read back (R134, R160). -/

@[simp] theorem Kind.kind_code (k : Kind) : k.code.kind = k := by cases k <;> rfl

@[simp] theorem Seg.seg_code (t : Seg) : t.code.seg = t := by cases t <;> rfl

/-- The kinds that move data between the 8086 and memory or a port at an address it gives (R149, R163, R164, R166 to
R168). -/
def Kind.movesData : Kind → Bool
  | .iord | .iowr | .fetch | .memrd | .memwr => true
  | .inta | .halt | .passive => false

theorem Kind.ne_passive_of_movesData {k : Kind} (hk : k.movesData = true) : k ≠ .passive := by
  rintro rfl
  cases hk

end Sys2Proof

namespace Sys2Proof.Machine

open Stated

/-! The phases and the lanes of a data-moving cycle (R142, R150, R164, R168). -/

theorem cyclePart_phases_of_movesData {r : BusReq} {s : State} {p : CyclePart} (hk : r.kind.movesData = true)
    (h : cyclePart r s = .ok p) :
    p.address = some (addressPhase r) ∧ p.status = some (statusPhase r.ifFlag r.seg.code) := by
  cases hkind : r.kind <;> simp only [cyclePart, hkind] at h
  case iord =>
    obtain ⟨-, -, -, rfl⟩ := iordPart_ok h
    exact ⟨rfl, rfl⟩
  case iowr =>
    obtain ⟨-, -, -, rfl⟩ := iowrPart_ok h
    exact ⟨rfl, rfl⟩
  case fetch =>
    obtain ⟨-, -, hp, -⟩ := fetchPart_ok h
    rw [hp]
    exact ⟨rfl, rfl⟩
  case memrd =>
    obtain ⟨-, rfl⟩ := memrdPart_ok h
    exact ⟨rfl, rfl⟩
  case memwr =>
    obtain ⟨-, rfl⟩ := memwrPart_ok h
    exact ⟨rfl, rfl⟩
  all_goals rw [hkind] at hk; cases hk

theorem cyclePart_lanes_of_write {r : BusReq} {s : State} {p : CyclePart} (hk : r.kind = .iowr ∨ r.kind = .memwr)
    (h : cyclePart r s = .ok p) : p.lanes = drivenLanes r.wdata := by
  rcases hk with hk | hk
  · simp only [cyclePart, hk] at h
    obtain ⟨-, -, -, rfl⟩ := iowrPart_ok h
    rfl
  · exact (cyclePart_memoryWrite hk h).2.1

/-- A completed code of a data-moving kind is the request's cycle, its address and status phase the request's. -/
theorem exec_kindInstr_next {k : Kind} {s t : State} (hk : k.movesData = true) (h : exec k.instr s = .next t) :
    ∃ p, cyclePart (s.req.withKind k) s = .ok p ∧ lastRecord t = some (p.pinRecord (s.req.withKind k) s)
      ∧ p.address = some (addressPhase s.req) ∧ p.status = some (statusPhase s.req.ifFlag s.req.seg.code) := by
  rw [exec_kindInstr] at h
  obtain ⟨p, -, hp, rfl⟩ := busCycle_next h
  obtain ⟨haddr, hstatus⟩ := cyclePart_phases_of_movesData hk hp
  exact ⟨p, hp, lastRecord_closeCycle _ _ _, haddr, hstatus⟩

/-- R246, R249: in maximum mode an observer reads back a cycle whose phases are its request's. S5's polarity is D3's. -/
theorem seen_pinRecord {r : BusReq} {s : State} {p : CyclePart} (hmode : s.cfg.mode = .max)
    (hcycle : r.kind ≠ .passive) (haddr : p.address = some (addressPhase r))
    (hstatus : p.status = some (statusPhase r.ifFlag r.seg.code)) :
    (p.pinRecord r s).seen = some { kind := r.kind, addr := r.addr, form := formOf r.bheN r.addr, seg := r.seg
                                    ifFlag := r.ifFlag, locked := r.lock } := by
  obtain ⟨-, -, hlevel⟩ := lockAfter_cycle hcycle s.lockHeld s.lockPrefix
  have hcode : (maxPins s.lockHeld r).kindCode = r.kind.code := rfl
  have htag : (⟨r.seg.code.s4, r.seg.code.s3⟩ : TagCode).seg = r.seg := Seg.seg_code r.seg
  have hlocked : (!(maxPins s.lockHeld r).lockN) = r.lock := by simp [maxPins, hlevel]
  simp [PinRecord.seen, CyclePart.pinRecord, typePins, hmode, haddr, hstatus, addressPhase, statusPhase, formOf, a0,
    hcode, htag, hlocked]

/-- R105, R109, R131, R145: S7 = 1 and S6 = 0 put `ST_HI` in 10h to 17h, whatever S5, S4 and S3 are. -/
theorem statusPhase_stHi (i : Level) (t : TagCode) :
    0x10 ≤ (statusPhase i t).stHi.toNat ∧ (statusPhase i t).stHi.toNat ≤ 0x17 := by
  obtain ⟨s4, s3⟩ := t
  revert i s4 s3
  decide

/-- The instructions O47 and O50 name are the codes of the data-moving kinds. -/
theorem kindInstr_of_dataMoving {i : Instr} {k : Kind}
    (h : i = .iord ∧ k = .iord ∨ i = .iowr ∧ k = .iowr ∨ i = .fetch ∧ k = .fetch ∨ i = .memrd ∧ k = .memrd
      ∨ i = .memwr ∧ k = .memwr) : i = k.instr ∧ k.movesData = true := by
  rcases h with ⟨rfl, rfl⟩ | ⟨rfl, rfl⟩ | ⟨rfl, rfl⟩ | ⟨rfl, rfl⟩ | ⟨rfl, rfl⟩ <;> exact ⟨rfl, rfl⟩

end Sys2Proof.Machine

open Sys2Proof Sys2Proof.Machine Sys2Proof.Stated

/-- Settles O50: the phases are the request's, so the observer reads the request back (`seen_pinRecord`); a write
drives both lanes with its data. -/
theorem pinsEncodeTheWholeRequest : Obligations.PinsEncodeTheWholeRequest := by
  intro i s t k hmode hi h
  obtain ⟨rfl, hk⟩ := kindInstr_of_dataMoving hi
  obtain ⟨p, hp, hlast, haddr, hstatus⟩ := exec_kindInstr_next hk h
  rw [hlast]
  refine ⟨seen_pinRecord hmode (Kind.ne_passive_of_movesData hk) haddr hstatus, fun hwrite => ?_⟩
  simp [cyclePart_lanes_of_write hwrite hp, drivenLanes]

/-- Settles O47: a data-moving cycle's address phase is its request's (`exec_kindInstr_next`). -/
theorem addressPhaseCarriesTheRequest : Obligations.AddressPhaseCarriesTheRequest := by
  intro i s t hi h
  obtain ⟨k, rfl, hk⟩ : ∃ k : Kind, i = k.instr ∧ k.movesData = true := by
    rcases hi with rfl | rfl | rfl | rfl | rfl
    exacts [⟨.iord, rfl, rfl⟩, ⟨.iowr, rfl, rfl⟩, ⟨.fetch, rfl, rfl⟩, ⟨.memrd, rfl, rfl⟩, ⟨.memwr, rfl, rfl⟩]
  obtain ⟨p, -, hlast, haddr, -⟩ := exec_kindInstr_next hk h
  exact ⟨_, _, hlast, haddr, rfl, rfl⟩

/-- Settles O48: a PASSIVE step has no status phase, and any other cycle's is a `statusPhase` (`cyclePart_phases`). -/
theorem statusPhaseConstantsOnEveryCycle : Obligations.StatusPhaseConstantsOnEveryCycle := by
  intro i s t h hi
  rw [exec_eq_busCycle s hi] at h
  obtain ⟨p, -, hp, rfl⟩ := busCycle_next h
  refine ⟨_, lastRecord_closeCycle _ _ _, ?_⟩
  rw [← cycleRequest_kind s hi]
  rcases cyclePart_phases hp with ⟨hk, -, hstatus⟩ | ⟨hk, -, f, c, -, hstatus, -⟩
  · simp [CyclePart.pinRecord, hstatus, hk]
  · simp only [CyclePart.pinRecord, hstatus, hk, reduceCtorEq, Option.some.injEq, true_and]
    rintro st rfl
    exact ⟨rfl, rfl, statusPhase_stHi f c⟩

end

section
/-! PROOFS. When a bus cycle is refused for its tag or its form (40_address_status_bhe.md R138, R149). -/

namespace Sys2Proof.Machine

open Stated

theorem busCycle_of_refusedPart {r : BusReq} {s : State} {e : Refusal}
    (hl : (r.lock && s.cfg.mode == .min) = false) (hp : cyclePart r s = .error e) :
    busCycle r s = .refused e := by
  simp [busCycle, hl, hp]

/-- R138: a tag the kind may not carry is refused before anything else its rule asks. -/
theorem cyclePart_of_wrongTag {r : BusReq} (s : State) (htag : tagAccepted r.kind r.seg = false) :
    cyclePart r s = .error .segKindMismatch := by
  cases hk : r.kind <;> rw [hk] at htag <;> simp only [cyclePart, hk]
  case inta => simp [intaPart, htag]
  case iord => simp [iordPart, htag]
  case iowr => simp [iowrPart, htag]
  case fetch => simp [fetchPart, htag]
  all_goals cases htag

/-- R149: a data-moving cycle with an accepted tag, a port in range and the form NONE is refused for the form. -/
theorem cyclePart_of_noForm {r : BusReq} {s : State} (hk : r.kind.movesData = true)
    (htag : tagAccepted r.kind r.seg = true)
    (hport : r.kind = .iord ∨ r.kind = .iowr → portInRange s.cfg r.addr = true)
    (hf : formOf r.bheN r.addr = .noForm) : cyclePart r s = .error .noSelection := by
  cases hkind : r.kind <;> rw [hkind] at hk htag hport <;> simp only [cyclePart, hkind]
  case iord => simp [iordPart, htag, hport, hf]
  case iowr => simp [iowrPart, htag, hport, hf]
  case fetch => simp [fetchPart, htag, hf]
  case memrd => simp [memrdPart, htag, hf]
  case memwr => simp [memwrPart, htag, hf]
  all_goals cases hk

@[simp] theorem cycleRequest_lock (r : BusReq) (i : Instr) : (cycleRequest r i).lock = r.lock := by
  cases i <;> rfl

@[simp] theorem cycleRequest_ifFlag (r : BusReq) (i : Instr) : (cycleRequest r i).ifFlag = r.ifFlag := by
  cases i <;> rfl

/-- The refusal of a code's cycle is the code's. -/
theorem exec_of_refusedPart {i : Instr} {s : State} {e : Refusal} (hi : isCycleCode i = true) (hlock : LockAllowed s)
    (hp : cyclePart (cycleRequest s.req i) s = .error e) : exec i s = .refused e := by
  rw [exec_eq_busCycle s hi]
  exact busCycle_of_refusedPart (by rw [cycleRequest_lock]; exact lock_not_refused hlock) hp

/-- R138, D4: FETCH, IORD, IOWR and INTA carry no tag but CS_NONE. -/
theorem exec_segKindMismatch {i : Instr} {s : State} (hi : isCycleCode i = true) (hlock : LockAllowed s)
    (hk : performedKind i s = .fetch ∨ performedKind i s = .iord ∨ performedKind i s = .iowr
      ∨ performedKind i s = .inta)
    (hseg : (cycleRequest s.req i).seg ≠ .csNone) : exec i s = .refused .segKindMismatch := by
  refine exec_of_refusedPart hi hlock (cyclePart_of_wrongTag s ?_)
  rw [cycleRequest_kind s hi]
  rcases hk with hk | hk | hk | hk <;> simpa [hk, tagAccepted] using hseg

/-- R149, D19: a data-moving cycle that asks for nothing it may not have but the form NONE. -/
theorem exec_noSelection {i : Instr} {s : State} (hi : isCycleCode i = true) (hlock : LockAllowed s)
    (hk : (performedKind i s).movesData = true)
    (htag : tagAccepted (performedKind i s) (cycleRequest s.req i).seg = true)
    (hport : performedKind i s = .iord ∨ performedKind i s = .iowr
      → portInRange s.cfg (cycleRequest s.req i).addr = true)
    (hf : formOf (cycleRequest s.req i).bheN (cycleRequest s.req i).addr = .noForm) :
    exec i s = .refused .noSelection := by
  rw [← cycleRequest_kind s hi] at hk htag hport
  exact exec_of_refusedPart hi hlock (cyclePart_of_noForm hk htag hport hf)

end Sys2Proof.Machine

open Sys2Proof Sys2Proof.Machine Sys2Proof.Stated

/-- Settles O15: the form is NONE, and nothing else a data-moving kind asks is missing (`exec_noSelection`). -/
theorem dataCycleWithoutSelectionIsRefused : Obligations.DataCycleWithoutSelectionIsRefused := by
  intro s hlock hbhe ha0
  have hform : formOf s.req.bheN s.req.addr = .noForm := (formOf_eq_noForm _ _).2 ⟨hbhe, ha0⟩
  refine ⟨?memrd, ?memwr, fun hseg => ?fetch, fun hseg hlt => ?ports⟩
  case memrd => exact exec_noSelection rfl hlock rfl rfl nofun hform
  case memwr => exact exec_noSelection rfl hlock rfl rfl nofun hform
  case fetch => exact exec_noSelection rfl hlock rfl (congrArg _ hseg) nofun hform
  case ports =>
    have hport := portInRange_of_lt hlt
    exact ⟨exec_noSelection rfl hlock rfl (congrArg _ hseg) (fun _ => hport) hform,
      exec_noSelection rfl hlock rfl (congrArg _ hseg) (fun _ => hport) hform⟩

/-- Settles O16: the tag is refused before anything else (`exec_segKindMismatch`); the refusal is the spec's decision
D4. -/
theorem otherTagsAreRefusedOutsideMemoryData : Obligations.OtherTagsAreRefusedOutsideMemoryData :=
  fun _ hlock hseg =>
    ⟨exec_segKindMismatch rfl hlock (.inl rfl) hseg, exec_segKindMismatch rfl hlock (.inr (.inl rfl)) hseg,
      exec_segKindMismatch rfl hlock (.inr (.inr (.inl rfl))) hseg,
      exec_segKindMismatch rfl hlock (.inr (.inr (.inr rfl))) hseg⟩

end

section
/-! PROOFS. The tag and form codes (40_address_status_bhe.md R135 to R139, R146 to R149): each runs the current
request's cycle with its levels on the pins (logs 2, 28). The minimum-mode levels in the memory cycles are log 19's. -/

namespace Sys2Proof.Machine

open Stated

/-! The state after a cycle, as the statements write it (R161). -/

section
variable {r : BusReq} {s : State} (hcycle : r.kind ≠ .passive) (hlock : r.lock = s.req.lock)
include hcycle hlock

/-- The type pins of a cycle are the levels its kind's rule names (R160, R176, R200). -/
theorem typePins_eq_shown : typePins s.cfg.mode s.lockHeld s.draws r
    = shown s r.kind.code.s2N r.kind.code.s1N r.kind.code.s0N (minModeControls s.draws r.kind) := by
  obtain ⟨-, -, hlevel⟩ := lockAfter_cycle hcycle s.lockHeld s.lockPrefix
  cases hm : s.cfg.mode <;> simp [typePins, shown, hm, maxPins, hlevel, hlock]

theorem closeCycle_eq_done (p : CyclePart) :
    s.closeCycle r p = done s (p.pinRecord r s) p.rdata p.mem p.queue := by
  obtain ⟨hheld, hpre, -⟩ := lockAfter_cycle hcycle s.lockHeld s.lockPrefix
  simp [State.closeCycle, done, hheld, hpre, hlock]

end

/-- A request that selects a lane has a form other than NONE (R149). -/
theorem formOf_of_selects {s : State} (h : Selects s) : formOf s.req.bheN s.req.addr ≠ .noForm := by
  rcases h with h | h <;> simp [formOf_eq_noForm, h]

/-! A memory cycle of any bus-cycle code (R167, R168). -/

section
variable {i : Instr} {s : State} (hi : isCycleCode i = true) (hlock : LockAllowed s)
  (hf : formOf (cycleRequest s.req i).bheN (cycleRequest s.req i).addr ≠ .noForm)
include hi hlock

/-- A code whose cycle is not refused completes. -/
theorem exec_of_part {p : CyclePart} (hp : cyclePart (cycleRequest s.req i) s = .ok p) :
    exec i s = .next (s.closeCycle (cycleRequest s.req i) p) := by
  rw [exec_eq_busCycle s hi]
  exact busCycle_of_part (by rw [cycleRequest_lock]; exact lock_not_refused hlock) hp

include hf

theorem exec_memoryRead (hk : performedKind i s = .memrd) :
    exec i s = .next (afterMemRead s (cycleRequest s.req i).addr (cycleRequest s.req i).bheN
      (cycleRequest s.req i).seg.code.s4 (cycleRequest s.req i).seg.code.s3) := by
  rw [← cycleRequest_kind s hi] at hk
  have hcycle : (cycleRequest s.req i).kind ≠ .passive := by simp [hk]
  rw [exec_of_part hi hlock (cyclePart_memrd hf hk), closeCycle_eq_done hcycle (cycleRequest_lock _ _)]
  simp only [CyclePart.pinRecord, typePins_eq_shown hcycle (cycleRequest_lock _ _), readPart, readLanes_memSpace, hk]
  simp only [afterMemRead, status, statusPhase, cycleRequest_ifFlag, Kind.code, minModeControls, addressPhase,
    Lanes.rdata, readValue]

/-- Memory after it is the lane rule's. -/
theorem exec_memoryWrite (hk : performedKind i s = .memwr) :
    exec i s = .next (done s (memWriteRecord s (cycleRequest s.req i).addr (cycleRequest s.req i).bheN
        (cycleRequest s.req i).seg.code.s4 (cycleRequest s.req i).seg.code.s3) 0
      (writeLanes s.mem (cycleRequest s.req i).addr (cycleRequest s.req i).bheN s.req.wdata) s.queue) := by
  rw [← cycleRequest_kind s hi] at hk
  have hcycle : (cycleRequest s.req i).kind ≠ .passive := by simp [hk]
  rw [exec_of_part hi hlock (cyclePart_memwr hf hk), closeCycle_eq_done hcycle (cycleRequest_lock _ _)]
  simp only [CyclePart.pinRecord, typePins_eq_shown hcycle (cycleRequest_lock _ _), writePart, drivenLanes, hk]
  simp only [memWriteRecord, status, statusPhase, cycleRequest_ifFlag, cycleRequest_wdata, Kind.code, minModeControls,
    addressPhase]

end

/-- Memory written by the lane rule is as the statements say (R85, R141). -/
theorem afterMemWrite_writeLanes {s : State} (hwf : s.mem.wf = true) (a : Addr) (bheN s4 s3 : Level) :
    AfterMemWrite s
      (done s (memWriteRecord s a bheN s4 s3) 0 (writeLanes s.mem a bheN s.req.wdata) s.queue) a bheN s4 s3 :=
  ⟨rfl, fun hhi => writeLanes_read_hi hwf (congrArg not hhi), fun hlo => writeLanes_read_lo hwf (congrArg not hlo),
    fun _ hx => writeLanes_read_other hx⟩

@[simp] theorem lastRecord_done (s : State) (p : PinRecord) (v : Word16) (m : Memory) (q : List Byte) :
    lastRecord (done s p v m q) = some p := by
  simp [lastRecord, done]

/-- A WORD read at an even address returns the next byte and the even one (R146). -/
theorem readValue_word (s : State) {a : Addr} (h : a0 a = false) :
    readValue s a false = joinBytes (s.mem.read (a + 1).toNat) (s.mem.read a.toNat) := by
  simp [readValue, readHi, readLo, h, hiAddr_of_even h, loAddr_of_even h]

/-- A HIGH_BYTE read carries the odd byte on the high lane and nothing on the low (R147). -/
theorem lanes_odd (s : State) {a : Addr} (h : a0 a = true) :
    readHi s a false = some (s.mem.read a.toNat) ∧ readLo s a = none := by
  simp [readHi, readLo, h, hiAddr_of_odd h]

/-- A LOW_BYTE read carries the even byte on the low lane and nothing on the high (R148). -/
theorem lanes_even (s : State) {a : Addr} (h : a0 a = false) :
    readHi s a true = none ∧ readLo s a = some (s.mem.read a.toNat) := by
  simp [readHi, readLo, h, loAddr_of_even h]

/-! What a memory write leaves, form by form (R146 to R148). -/

section
variable {s t : State} {a : Addr} {s4 s3 : Level}

theorem storedAddrs_word (h0 : a0 a = false) : storedAddrs a false = [(a + 1).toNat, a.toNat] := by
  rw [storedAddrs, hiAddr_of_even h0, loAddr_of_even h0, hiSelected, loSelected, h0]
  rfl

theorem storedAddrs_odd (h0 : a0 a = true) : storedAddrs a false = [a.toNat] := by
  rw [storedAddrs, hiAddr_of_odd h0, hiSelected, loSelected, h0]
  rfl

theorem storedAddrs_even (h0 : a0 a = false) : storedAddrs a true = [a.toNat] := by
  rw [storedAddrs, loAddr_of_even h0, hiSelected, loSelected, h0]
  rfl

theorem afterMemWrite_word (h : AfterMemWrite s t a false s4 s3) (h0 : a0 a = false) :
    t.mem.read a.toNat = loByte s.req.wdata ∧ t.mem.read (a + 1).toNat = hiByte s.req.wdata
      ∧ ∀ x, x ≠ a.toNat → x ≠ (a + 1).toNat → t.mem.read x = s.mem.read x := by
  obtain ⟨-, hhi, hlo, hother⟩ := h
  rw [hiAddr_of_even h0] at hhi
  rw [loAddr_of_even h0] at hlo
  rw [storedAddrs_word h0] at hother
  exact ⟨hlo h0, hhi rfl, fun x hx hx' =>
    hother x (List.not_mem_cons_of_ne_of_not_mem hx' (List.not_mem_cons_of_ne_of_not_mem hx List.not_mem_nil))⟩

theorem afterMemWrite_odd (h : AfterMemWrite s t a false s4 s3) (h0 : a0 a = true) :
    t.mem.read a.toNat = hiByte s.req.wdata ∧ ∀ x, x ≠ a.toNat → t.mem.read x = s.mem.read x := by
  obtain ⟨-, hhi, -, hother⟩ := h
  rw [hiAddr_of_odd h0] at hhi
  rw [storedAddrs_odd h0] at hother
  exact ⟨hhi rfl, fun x hx => hother x (List.not_mem_cons_of_ne_of_not_mem hx List.not_mem_nil)⟩

theorem afterMemWrite_even (h : AfterMemWrite s t a true s4 s3) (h0 : a0 a = false) :
    t.mem.read a.toNat = loByte s.req.wdata ∧ ∀ x, x ≠ a.toNat → t.mem.read x = s.mem.read x := by
  obtain ⟨-, -, hlo, hother⟩ := h
  rw [loAddr_of_even h0] at hlo
  rw [storedAddrs_even h0] at hother
  exact ⟨hlo h0, fun x hx => hother x (List.not_mem_cons_of_ne_of_not_mem hx List.not_mem_nil)⟩

end

/-! A code's cycle as the cycle of the request's own kind (logs 2, 28). -/

/-- A cycle reads nothing of the request on the pins but the request it runs. -/
theorem cyclePart_withReq (r r' : BusReq) (s : State) : cyclePart r { s with req := r' } = cyclePart r s := rfl

theorem busCycle_withReq (r r' : BusReq) (s : State) :
    withRequest s.req (busCycle r { s with req := r' }) = busCycle r s := by
  simp only [busCycle, cyclePart_withReq]
  split
  · rfl
  · cases cyclePart r s <;> rfl

/-- A tag or form code is the request's kind's own code with the code's levels in the request. -/
theorem exec_eq_withRequest {i : Instr} {s : State} {r : BusReq} (hi : isCycleCode i = true)
    (hr : cycleRequest s.req i = r) (hk : r.kind = s.req.kind) :
    exec i s = withRequest s.req (exec s.req.kind.instr { s with req := r }) := by
  rw [exec_eq_busCycle s hi, exec_kindInstr, busCycle_withReq, ← hk, hr]
  rfl

/-- The even address that agrees with another in A19..A1 (R140). -/
theorem eq_loAddr {A a : Addr} (h : ∀ n, 1 ≤ n → A.getLsbD n = a.getLsbD n) (h0 : a0 A = false) : A = loAddr a := by
  apply BitVec.eq_of_getLsbD_eq
  intro n hn
  cases n with
  | zero => exact h0.trans (a0_loAddr a).symm
  | succ n =>
    rw [h (n + 1) (by omega)]
    simp only [loAddr, BitVec.getLsbD_and, BitVec.getLsbD_not, BitVec.getLsbD_one]
    simp [hn]

/-- The odd address that agrees with another in A19..A1 (R140). -/
theorem eq_hiAddr {A a : Addr} (h : ∀ n, 1 ≤ n → A.getLsbD n = a.getLsbD n) (h0 : a0 A = true) : A = hiAddr a := by
  apply BitVec.eq_of_getLsbD_eq
  intro n hn
  cases n with
  | zero => exact h0.trans (a0_hiAddr a).symm
  | succ n => simp [hiAddr, BitVec.getLsbD_one, h (n + 1) (by omega)]

/-! The kinds that take no address and no BHE# from the request (R144, R149). -/

section
variable {r : BusReq} {s : State} (hk : r.kind = .halt ∨ r.kind = .passive ∨ (r.kind = .inta ∧ r.seg = .csNone))
include hk

theorem busCycle_withForm (f : Form) : busCycle (r.withForm f) s = busCycle r s := by
  have hpart : cyclePart (r.withForm f) s = cyclePart r s := by
    rcases hk with hk | hk | ⟨hk, -⟩ <;> simp only [cyclePart, withForm_kind, hk] <;> rfl
  simp only [busCycle, hpart]
  rfl

/-- They complete, and leave memory and the queue. -/
theorem cyclePart_completes : ∃ p, cyclePart r s = .ok p ∧ p.mem = s.mem ∧ p.queue = s.queue := by
  rcases hk with hk | hk | ⟨hk, hseg⟩ <;> simp only [cyclePart, hk]
  · exact ⟨_, rfl, rfl, rfl⟩
  · exact ⟨_, rfl, rfl, rfl⟩
  · simp [intaPart, tagAccepted, hseg]

end

/-- R149: NONE on a memory cycle is refused for the form. -/
theorem exec_noForm_memory {s : State} (hlock : LockAllowed s)
    (hk : s.req.kind = .memrd ∨ s.req.kind = .memwr ∨ (s.req.kind = .fetch ∧ s.req.seg = .csNone)) :
    exec .noForm s = .refused .noSelection := by
  have hkind : performedKind .noForm s = s.req.kind := rfl
  refine exec_noSelection rfl hlock ?moves ?tag ?noPort (formOf_withForm s.req .noForm) <;> rw [hkind]
  case moves => rcases hk with hk | hk | ⟨hk, -⟩ <;> rw [hk] <;> rfl
  case tag =>
    show tagAccepted s.req.kind s.req.seg = true
    rcases hk with hk | hk | ⟨hk, hseg⟩
    · rw [hk]; rfl
    · rw [hk]; rfl
    · rw [hk, hseg]; rfl
  case noPort => rcases hk with hk | hk | ⟨hk, -⟩ <;> rw [hk] <;> nofun

end Sys2Proof.Machine

open Sys2Proof Sys2Proof.Machine Sys2Proof.Stated

/-- Settles O19: each tag code is the memory read of the request with the tag's levels (`exec_memoryRead`). -/
theorem segmentTagsOnAMemoryRead : Obligations.SegmentTagsOnAMemoryRead := by
  intro s hlock hsel hk
  have hf := formOf_of_selects hsel
  exact ⟨exec_memoryRead (i := .es) rfl hlock hf hk, exec_memoryRead (i := .ss) rfl hlock hf hk,
    exec_memoryRead (i := .csNone) rfl hlock hf hk, exec_memoryRead (i := .ds) rfl hlock hf hk⟩

/-- Settles O20: each tag code is the memory write of the request with the tag's levels (`exec_memoryWrite`), and the
memory it leaves does not mention the tag. -/
theorem segmentTagsOnAMemoryWrite : Obligations.SegmentTagsOnAMemoryWrite := by
  intro s hlock hsel hk hwf
  have hf := formOf_of_selects hsel
  have after := afterMemWrite_writeLanes hwf s.req.addr s.req.bheN
  exact ⟨⟨_, exec_memoryWrite (i := .es) rfl hlock hf hk, after _ _⟩,
    ⟨_, exec_memoryWrite (i := .ss) rfl hlock hf hk, after _ _⟩,
    ⟨_, exec_memoryWrite (i := .csNone) rfl hlock hf hk, after _ _⟩,
    ⟨_, exec_memoryWrite (i := .ds) rfl hlock hf hk, after _ _⟩⟩

/-- Settles O21: a cycle reads nothing of the request on the pins but the request it runs (`exec_eq_withRequest`). -/
theorem segmentTagsRunTheRequestsCycle : Obligations.SegmentTagsRunTheRequestsCycle := by
  intro s
  refine ⟨exec_eq_withRequest rfl rfl rfl, exec_eq_withRequest rfl rfl rfl, exec_eq_withRequest rfl rfl rfl,
    exec_eq_withRequest rfl rfl rfl, fun hlock hk => ⟨?es, ?ss, ?ds⟩⟩
  case es => exact exec_segKindMismatch rfl hlock hk nofun
  case ss => exact exec_segKindMismatch rfl hlock hk nofun
  case ds => exact exec_segKindMismatch rfl hlock hk nofun

/-- Settles O26: the form code's A0 puts `loAddr` or `hiAddr` of the request's address on the pins, which is `A`. -/
theorem formCodesRunTheRequestsCycle : Obligations.FormCodesRunTheRequestsCycle := by
  intro s A hA
  refine ⟨fun h0 => ?even, fun h0 => ?odd⟩
  case even =>
    obtain rfl := eq_loAddr hA h0
    exact ⟨exec_eq_withRequest rfl rfl rfl, exec_eq_withRequest rfl rfl rfl⟩
  case odd =>
    obtain rfl := eq_hiAddr hA h0
    exact ⟨exec_eq_withRequest rfl rfl rfl, exec_eq_withRequest rfl rfl rfl⟩

/-- Settles O22: the cycle of WORD is the memory cycle at `A` with both lanes selected (`readValue_word`,
`afterMemWrite_word`). -/
theorem wordFormMovesBothBytes : Obligations.WordFormMovesBothBytes := by
  rintro s hlock hwf A rfl
  have h0 := a0_loAddr s.req.addr
  have hf := formOf_even h0 false
  refine ⟨h0, fun hk => ?read, fun hk => ?write⟩
  case read => exact ⟨_, exec_memoryRead (i := .word) rfl hlock hf hk, rfl, readValue_word s h0⟩
  case write =>
    have hafter := afterMemWrite_writeLanes hwf (loAddr s.req.addr) false s.req.seg.code.s4 s.req.seg.code.s3
    exact ⟨_, exec_memoryWrite (i := .word) rfl hlock hf hk, hafter, afterMemWrite_word hafter h0⟩

/-- Settles O23: the cycle of HIGH_BYTE is the memory cycle at `A` with the high lane selected (`lanes_odd`,
`afterMemWrite_odd`). -/
theorem highByteFormMovesTheOddByte : Obligations.HighByteFormMovesTheOddByte := by
  rintro s hlock hwf A rfl
  have h0 := a0_hiAddr s.req.addr
  have hf := formOf_bheN_low (hiAddr s.req.addr)
  refine ⟨h0, fun hk => ?read, fun hk => ?write⟩
  case read =>
    refine ⟨_, exec_memoryRead (i := .highByte) rfl hlock hf hk, rfl, ?_⟩
    obtain ⟨hhi, hlo⟩ := lanes_odd s h0
    rw [← hhi, ← hlo]
    exact congrArg _ (lastRecord_done _ _ _ _ _)
  case write =>
    have hafter := afterMemWrite_writeLanes hwf (hiAddr s.req.addr) false s.req.seg.code.s4 s.req.seg.code.s3
    exact ⟨_, exec_memoryWrite (i := .highByte) rfl hlock hf hk, hafter, afterMemWrite_odd hafter h0⟩

/-- Settles O24: the cycle of LOW_BYTE is the memory cycle at `A` with the low lane selected (`lanes_even`,
`afterMemWrite_even`). -/
theorem lowByteFormMovesTheEvenByte : Obligations.LowByteFormMovesTheEvenByte := by
  rintro s hlock hwf A rfl
  have h0 := a0_loAddr s.req.addr
  have hf := formOf_even h0 true
  refine ⟨h0, fun hk => ?read, fun hk => ?write⟩
  case read =>
    refine ⟨_, exec_memoryRead (i := .lowByte) rfl hlock hf hk, rfl, ?_⟩
    obtain ⟨hhi, hlo⟩ := lanes_even s h0
    rw [← hhi, ← hlo]
    exact congrArg _ (lastRecord_done _ _ _ _ _)
  case write =>
    have hafter := afterMemWrite_writeLanes hwf (loAddr s.req.addr) true s.req.seg.code.s4 s.req.seg.code.s3
    exact ⟨_, exec_memoryWrite (i := .lowByte) rfl hlock hf hk, hafter, afterMemWrite_even hafter h0⟩

/-- Settles O25: INTA, HALT and PASSIVE take neither address nor BHE# from the request, so the form changes nothing
(`busCycle_withForm`); on a memory kind the form is refused (`exec_noForm_memory`). -/
theorem noneFormMovesNothing : Obligations.NoneFormMovesNothing := by
  intro s hlock
  refine ⟨fun hk => ?bare, fun hk => ?memory, fun hk hseg => ?fetch⟩
  case bare =>
    obtain ⟨p, hp, hmem, hqueue⟩ := cyclePart_completes (s := s) hk
    have hnext := busCycle_of_part (lock_not_refused hlock) hp
    have hsame : exec .noForm s = exec s.req.kind.instr s :=
      (busCycle_withForm hk .noForm).trans (exec_kindInstr s.req.kind s).symm
    exact ⟨_, (busCycle_withForm hk .noForm).trans hnext, hsame, hmem, hqueue, List.length_append⟩
  case memory => exact exec_noForm_memory hlock (hk.imp_right .inl)
  case fetch => exact exec_noForm_memory hlock (.inr (.inr ⟨hk, hseg⟩))

end

section
/-! PROOFS. The eight bus-cycle types (41_bus_cycle_types.md R160 to R170): what each leaves when it completes, and the
refusals of a port (R163, R164) and of a fetch (R166). The minimum-mode levels are log 19's, the queue log 23's. -/

namespace Sys2Proof

/-! The codes by kind (R160, R170). -/

/-- No two kinds share a code (R160). -/
theorem Kind.code_inj {k k' : Kind} : k.code = k'.code ↔ k = k' :=
  (Function.LeftInverse.injective Kind.kind_code).eq_iff

theorem Kind.s2N_eq_true_iff (k : Kind) :
    k.code.s2N = true ↔ k = .fetch ∨ k = .memrd ∨ k = .memwr ∨ k = .passive := by
  cases k <;> simp [Kind.code]

theorem Kind.s2N_eq_false_iff (k : Kind) :
    k.code.s2N = false ↔ k = .inta ∨ k = .iord ∨ k = .iowr ∨ k = .halt := by
  cases k <;> simp [Kind.code]

theorem Kind.s1N_eq_true_iff {k : Kind} (hhalt : k ≠ .halt) (hpassive : k ≠ .passive) :
    k.code.s1N = true ↔ k = .iowr ∨ k = .memwr := by
  cases k
  case halt => exact absurd rfl hhalt
  case passive => exact absurd rfl hpassive
  all_goals simp [Kind.code]

end Sys2Proof

namespace Sys2Proof.Machine

open Stated

/-! When the kinds that are no data transfer complete, and with what (R162, R165, R169). -/

/-- What a cycle with no address of its own adds to the frame of R161: address and BHE# are draws (R162, R165). -/
def drawnPart (r : BusReq) (s : State) (t : TagCode) (lanes : Lanes) : CyclePart :=
  { address := some ⟨Config.cycleAddress s.draws, Config.cycleBheN s.draws⟩
    status := some (statusPhase r.ifFlag t)
    lanes := lanes, rdata := lanes.rdata, mem := s.mem, queue := s.queue }

theorem cyclePart_inta {r : BusReq} (s : State) (hk : r.kind = .inta) (hseg : r.seg = .csNone) :
    cyclePart r s = .ok (drawnPart r s ⟨true, false⟩ ⟨none, some (Config.intaByte s.draws)⟩) := by
  simp [cyclePart, hk, intaPart, tagAccepted, hseg, drawnPart, Seg.code]

theorem cyclePart_halt {r : BusReq} (s : State) (hk : r.kind = .halt) :
    cyclePart r s = .ok (drawnPart r s ⟨Config.haltS4 s.draws, Config.haltS3 s.draws⟩ ⟨none, none⟩) := by
  simp only [cyclePart, hk]
  rfl

theorem cyclePart_passive {r : BusReq} (s : State) (hk : r.kind = .passive) :
    cyclePart r s = .ok { address := none, status := none, lanes := ⟨none, none⟩, rdata := 0
                          mem := s.mem, queue := s.queue } := by
  simp only [cyclePart, hk]
  rfl

/-! When a cycle is refused for its port or for the queue (R163, R164, R166). -/

/-- A port of `2 ^ IO_ADDR_BITS` or more is out of range (R62). -/
theorem portInRange_of_le {c : Cfg} {a : Addr} (h : 2 ^ c.ioAddrBits ≤ a.toNat) : portInRange c a = false := by
  simp [portInRange, Nat.shiftRight_eq_div_pow, h]

theorem cyclePart_portOutOfRange {r : BusReq} {s : State} (hk : r.kind = .iord ∨ r.kind = .iowr)
    (hseg : r.seg = .csNone) (hport : portInRange s.cfg r.addr = false) :
    cyclePart r s = .error .portOutOfRange := by
  rcases hk with hk | hk
  · simp [cyclePart, hk, iordPart, tagAccepted, hseg, hport]
  · simp [cyclePart, hk, iowrPart, tagAccepted, hseg, hport]

theorem cyclePart_queueOverflow {r : BusReq} {s : State} (hk : r.kind = .fetch) (hseg : r.seg = .csNone)
    (hf : formOf r.bheN r.addr ≠ .noForm) (hmode : s.cfg.mode = .max)
    (hfull : s.cfg.queueDepth < s.queue.length + (readLanes s.memSpace r.addr r.bheN).fetched.length) :
    cyclePart r s = .error .queueOverflow := by
  simp [cyclePart, hk, fetchPart, tagAccepted, hseg, hf, hmode, hfull]

/-! A completed cycle as the statements write it (R161). -/

/-- A code of a bus-cycle type other than PASSIVE completes with its kind's levels on the type pins and the rest of
its record as the kind's rule says. -/
theorem exec_kindInstr_of_part {k : Kind} {s : State} {p : CyclePart} (hcycle : k ≠ .passive) (hlock : LockAllowed s)
    (hp : cyclePart (s.req.withKind k) s = .ok p) :
    exec k.instr s = .next (done s
      { address := p.address, status := p.status
        typePins := shown s k.code.s2N k.code.s1N k.code.s0N (minModeControls s.draws k)
        dHi := p.lanes.hi, dLo := p.lanes.lo } p.rdata p.mem p.queue) := by
  rw [exec_kindInstr, busCycle_of_part (r := s.req.withKind k) (lock_not_refused hlock) hp,
    closeCycle_eq_done (r := s.req.withKind k) hcycle rfl, CyclePart.pinRecord,
    typePins_eq_shown (r := s.req.withKind k) hcycle rfl]
  rfl

/-- The status phase of a request that carries CS_NONE (R137, R150). -/
theorem statusPhase_of_csNone {s : State} (hseg : s.req.seg = .csNone) :
    some (statusPhase s.req.ifFlag s.req.seg.code) = status s true false := by
  rw [hseg]
  rfl

/-- The lanes of a read, as the statements write them (R141). -/
theorem readLanes_eq (space : Addr → Byte) (a : Addr) (bheN : Level) :
    readLanes space a bheN
      = ⟨if bheN = false then some (space (hiAddr a)) else none,
          if a0 a = false then some (space (loAddr a)) else none⟩ := by
  simp [readLanes, hiSelected, loSelected]

/-- IO_ENV takes the bytes of the selected lanes from the record of an I/O write (R164). -/
theorem portWrites_of_ioWrite {p : PinRecord} {a : Addr} {bheN : Level} {w : Word16}
    (hwrite : p.typePins.strobes.ioWrite = true) (haddr : p.address = some ⟨a, bheN⟩) (hhi : p.dHi = some (hiByte w))
    (hlo : p.dLo = some (loByte w)) : p.portWrites = laneBytes a bheN w := by
  simp [PinRecord.portWrites, PinRecord.strobes, hwrite, haddr, hhi, hlo, laneBytes]

/-- In either mode the levels of an IOWR show an I/O write (R160, R176). -/
theorem shown_iowr_ioWrite (s : State) :
    (shown s false true false ⟨false, true, true, false, false, true, true⟩).strobes.ioWrite = true := by
  cases hm : s.cfg.mode <;> simp [shown, TypePins.strobes, hm]

/-! The 8288's outputs by kind (R181, R182, R184). -/

section
variable (k : Kind)

@[simp] theorem bc8288_mrdcN : (bc8288 k.code).mrdcN = !(k == .fetch || k == .memrd) := by cases k <;> rfl
@[simp] theorem bc8288_mwtcN : (bc8288 k.code).mwtcN = !(k == .memwr) := by cases k <;> rfl
@[simp] theorem bc8288_iorcN : (bc8288 k.code).iorcN = !(k == .iord) := by cases k <;> rfl
@[simp] theorem bc8288_iowcN : (bc8288 k.code).iowcN = !(k == .iowr) := by cases k <;> rfl
@[simp] theorem bc8288_intaN : (bc8288 k.code).intaN = !(k == .inta) := by cases k <;> rfl
@[simp] theorem bc8288_amwcN : (bc8288 k.code).amwcN = !(k == .memwr) := by cases k <;> rfl
@[simp] theorem bc8288_aiowcN : (bc8288 k.code).aiowcN = !(k == .iowr) := by cases k <;> rfl
@[simp] theorem bc8288_ale : (bc8288 k.code).ale = !(k == .passive) := by cases k <;> rfl

end

theorem bc8288_dtR_of_write {k : Kind} (hk : k = .iowr ∨ k = .memwr) : (bc8288 k.code).dtR = true := by
  rcases hk with rfl | rfl <;> rfl

theorem bc8288_dtR_of_read {k : Kind} (hk : k = .inta ∨ k = .iord ∨ k = .fetch ∨ k = .memrd) :
    (bc8288 k.code).dtR = false := by
  rcases hk with rfl | rfl | rfl | rfl <;> rfl

theorem controller_of_maxPins {p : PinRecord} {q : MaxPins} (h : p.typePins = .max q) :
    p.controller = some (bc8288 q.kindCode) := by
  simp only [PinRecord.controller, h]

/-- A completed cycle in maximum mode shows the code of the kind performed on S2# S1# S0# (R160, R161). -/
theorem exec_shows_code {i : Instr} {s t : State} (h : exec i s = .next t) (hi : isCycleCode i = true)
    (hmode : s.cfg.mode = .max) :
    ∃ p q, lastRecord t = some p ∧ p.typePins = .max q ∧ q.kindCode = (performedKind i s).code := by
  rw [exec_eq_busCycle s hi] at h
  obtain ⟨p, -, -, rfl⟩ := busCycle_next h
  refine ⟨_, maxPins s.lockHeld (cycleRequest s.req i), lastRecord_closeCycle _ _ _, ?_, ?_⟩
  · simp [CyclePart.pinRecord, typePins, hmode]
  · rw [← cycleRequest_kind s hi]
    rfl

end Sys2Proof.Machine

open Sys2Proof Sys2Proof.Machine Sys2Proof.Stated

/-- Settles O6: the record of `cyclePart_inta`, with INTA's levels (`exec_kindInstr_of_part`). -/
theorem interruptAcknowledgeCycleCompletes : Obligations.InterruptAcknowledgeCycleCompletes :=
  fun s hlock hseg => exec_kindInstr_of_part (k := .inta) nofun hlock (cyclePart_inta s rfl hseg)

/-- Settles O7: each selected lane reads IO_ENV's byte at its port (`readLanes_eq`). -/
theorem portReadCycleCompletes : Obligations.PortReadCycleCompletes := by
  intro s hlock hseg hlt hsel
  have hnext := exec_kindInstr_of_part (k := .iord) nofun hlock
    (cyclePart_iord (formOf_of_selects hsel) rfl hseg (portInRange_of_lt hlt))
  simp only [readPart, withKind_addr, withKind_bheN, withKind_ifFlag, withKind_seg, readLanes_eq,
    statusPhase_of_csNone hseg] at hnext
  exact ⟨_, _, rfl, rfl, hnext⟩

/-- Settles O8: both lanes are driven, and of them IO_ENV takes the selected ones (`portWrites_of_ioWrite`). -/
theorem portWriteCycleCompletes : Obligations.PortWriteCycleCompletes := by
  intro s hlock hseg hlt hsel
  have hnext := exec_kindInstr_of_part (k := .iowr) nofun hlock
    (cyclePart_iowr (formOf_of_selects hsel) rfl hseg (portInRange_of_lt hlt))
  simp only [writePart, withKind_ifFlag, withKind_seg, statusPhase_of_csNone hseg] at hnext
  refine ⟨_, rfl, ?_, hnext⟩
  rw [portWrites_of_ioWrite (shown_iowr_ioWrite s) rfl rfl rfl]
  simp [laneBytes, hiSelected, loSelected]

/-- Settles O9: HALT's rule asks nothing of the request (`cyclePart_halt`). -/
theorem haltCycleCompletes : Obligations.HaltCycleCompletes :=
  fun s hlock => exec_kindInstr_of_part (k := .halt) nofun hlock (cyclePart_halt s rfl)

/-- Settles O10: the fetch completes where its bytes fit in the queue (`cyclePart_fetch`), else it is refused
(`cyclePart_queueOverflow`). -/
theorem fetchCycleFillsTheQueue : Obligations.FetchCycleFillsTheQueue := by
  rintro s bytes hmode hseg hsel rfl
  have hf := formOf_of_selects hsel
  have hbytes : (readLanes s.memSpace s.req.addr s.req.bheN).fetched
      = (readLo s s.req.addr).toList ++ (readHi s s.req.addr s.req.bheN).toList := by
    rw [readLanes_memSpace]
    rfl
  rw [← hbytes]
  refine ⟨fun hroom => ?room, fun hfull => ?full⟩
  case room =>
    have hnext := exec_kindInstr_of_part (k := .fetch) nofun (.inl hmode)
      (cyclePart_fetch (r := s.req.withKind .fetch) hf rfl hseg fun _ => hroom)
    simp only [readPart, withKind_addr, withKind_bheN, withKind_ifFlag, withKind_seg, statusPhase_of_csNone hseg,
      shown, hmode, if_true] at hnext
    rw [readLanes_memSpace] at hnext ⊢
    exact hnext
  case full =>
    exact exec_of_refusedPart (i := .fetch) rfl (.inl hmode)
      (cyclePart_queueOverflow (r := s.req.withKind .fetch) rfl hseg hf hmode hfull)

/-- Settles O11: in minimum mode the control levels of FETCH and MEMRD are the same and the queue is left. -/
theorem fetchInMinimumModeIsAMemoryRead : Obligations.FetchInMinimumModeIsAMemoryRead := by
  intro s hmode hfree hseg hsel
  have hf := formOf_of_selects hsel
  have hmin : s.cfg.mode ≠ .max := by simp [hmode]
  have hread : exec .memrd s = .next (afterMemRead s s.req.addr s.req.bheN true false) := by
    have hnext := exec_memoryRead (i := .memrd) (s := s) rfl (.inr hfree) hf rfl
    simpa [cycleRequest, hseg, Seg.code] using hnext
  have hfetch : exec .fetch s = .next (afterMemRead s s.req.addr s.req.bheN true false) := by
    have hnext := exec_kindInstr_of_part (k := .fetch) nofun (.inr hfree)
      (cyclePart_fetch (r := s.req.withKind .fetch) hf rfl hseg fun hmax => absurd hmax hmin)
    simp only [readPart, withKind_addr, withKind_bheN, withKind_ifFlag, withKind_seg, statusPhase_of_csNone hseg,
      readLanes_memSpace, shown, hmode] at hnext
    simp only [afterMemRead, shown, hmode]
    exact hnext
  exact ⟨hfetch.trans hread.symm, hfetch⟩

/-- Settles O12: MEMRD is the memory read of the request on the pins (`exec_memoryRead`). -/
theorem memoryReadCycleCompletes : Obligations.MemoryReadCycleCompletes :=
  fun _ hlock hsel => exec_memoryRead (i := .memrd) rfl hlock (formOf_of_selects hsel) rfl

/-- Settles O13: MEMWR is the memory write of the request on the pins (`exec_memoryWrite`), by the lane rule
(`afterMemWrite_writeLanes`). -/
theorem memoryWriteCycleCompletes : Obligations.MemoryWriteCycleCompletes :=
  fun _ hlock hsel hwf =>
    ⟨_, exec_memoryWrite (i := .memwr) rfl hlock (formOf_of_selects hsel) rfl, writeLanes_wf _ _ _ hwf,
      afterMemWrite_writeLanes hwf _ _ _ _⟩

/-- Settles O14: a PASSIVE step shows its type pins only and leaves the lock as it was
(`lockAfter_passive`); its record has no address (log 34). -/
theorem passiveStepCompletes : Obligations.PassiveStepCompletes := by
  intro s hlock
  have hnext := exec_of_part (i := .passive) rfl hlock (cyclePart_passive s rfl)
  obtain ⟨hheld, hpre, hlevel⟩ :=
    lockAfter_passive (r := cycleRequest s.req .passive) rfl s.lockHeld s.lockPrefix
  rw [hnext, State.closeCycle, hheld, hpre]
  cases hm : s.cfg.mode with
  | max => simp only [CyclePart.pinRecord, typePins, hm, maxPins, hlevel]; rfl
  | min => simp only [CyclePart.pinRecord, typePins, hm]; rfl

/-- Settles O49: the three lines are the code of the kind performed (`exec_shows_code`), which reads back as its
instruction (`decode_kindWord`). -/
theorem statusLinesShowTheKind : Obligations.StatusLinesShowTheKind := by
  intro i s t h hi hmode
  obtain ⟨p, q, hlast, hpins, hcode⟩ := exec_shows_code h hi hmode
  refine ⟨p, q, hlast, hpins, ?_⟩
  calc decode ⟨.s2s1s0, [q.s2N, q.s1N, q.s0N]⟩
      = decode ⟨.s2s1s0, [q.kindCode.s2N, q.kindCode.s1N, q.kindCode.s0N]⟩ := rfl
    _ = decode (performedKind i s).word := by rw [hcode]; rfl
    _ = .ok (performedKind i s).instr := decode_kindWord _

/-- Settles O51: the 8288 sees the code of the kind performed (`exec_shows_code`), and each command output is low for
its own kinds only. The pairing of outputs and codes is the spec's inference (D17). -/
theorem controllerCommandOfEachCycle : Obligations.ControllerCommandOfEachCycle := by
  intro i s t h hi hmode
  obtain ⟨p, q, hlast, hpins, hcode⟩ := exec_shows_code h hi hmode
  have hout : p.controller = some (bc8288 (performedKind i s).code) := by rw [controller_of_maxPins hpins, hcode]
  refine ⟨p, _, hlast, hout, ?mrdc, ?mwtc, ?iorc, ?iowc, ?inta⟩
  case mrdc => simp [or_iff_not_imp_left]
  case mwtc => simp
  case iorc => simp
  case iowc => simp
  case inta => simp

/-- Settles O3: R170's three sentences, each read off the codes of R160. -/
theorem statusLinePatternsByKind : Obligations.StatusLinePatternsByKind :=
  fun k => ⟨k.s2N_eq_true_iff, k.s2N_eq_false_iff, Kind.s1N_eq_true_iff⟩

/-- Settles O17: the tag is accepted and the port is out of range (`cyclePart_portOutOfRange`); the bound is the spec's
decision D8. -/
theorem portBeyondTheWidthIsRefused : Obligations.PortBeyondTheWidthIsRefused := by
  intro s hlock hseg hle
  have hport := portInRange_of_le hle
  exact ⟨exec_of_refusedPart (i := .iord) rfl hlock (cyclePart_portOutOfRange (.inl rfl) hseg hport),
    exec_of_refusedPart (i := .iowr) rfl hlock (cyclePart_portOutOfRange (.inr rfl) hseg hport)⟩

/-- Settles O52: every code is some kind's, and each output is known by kind; no two of the four commands have a kind
in common. The outputs beside the commands are general knowledge (log 18). -/
theorem controllerOutputsByCode : Obligations.ControllerOutputsByCode := by
  intro c
  obtain ⟨k, rfl⟩ : ∃ k : Kind, c = k.code := ⟨c.kind, (KindCode.code_kind c).symm⟩
  refine ⟨?commands, ?memory, ?ports, ?ale, fun hwrite => ?write, fun hread => ?read⟩
  case commands =>
    rw [bc8288_mrdcN, bc8288_mwtcN, bc8288_iorcN, bc8288_iowcN]
    cases k <;> decide
  case memory => rw [bc8288_amwcN, bc8288_mwtcN]
  case ports => rw [bc8288_aiowcN, bc8288_iowcN]
  case ale =>
    have hcode : k.code = ⟨true, true, true⟩ ↔ k = .passive := Kind.code_inj (k' := .passive)
    rw [bc8288_ale, hcode]
    simp
  case write =>
    exact bc8288_dtR_of_write
      (hwrite.imp (Kind.code_inj (k' := .iowr)).mp (Kind.code_inj (k' := .memwr)).mp)
  case read => exact bc8288_dtR_of_read (Kind.kind_code k ▸ hread)

end

section
/-! PROOFS. The queue status codes, and the queue an observer keeps from FETCH cycles and QS1 QS0
(42_lock_and_queue_status.md R210 to R216; the queue's mechanism is log 23's). -/

namespace Sys2Proof.Machine

open Stated

/-! The queue operations (R210 to R214). -/

theorem exec_qopInstr (op : QOp) (s : State) : exec op.instr s = queueOp op s := by cases op <;> rfl

/-- A queue operation is refused in minimum mode (R205; log 14). -/
theorem queueOp_of_min (op : QOp) {s : State} (hmode : s.cfg.mode = .min) :
    queueOp op s = .refused .eventNotInMinMode := by
  simp only [queueOp, hmode]

section
variable {op : QOp} {s : State} (hmode : s.cfg.mode = .max)
include hmode

/-- A queue operation completes with what its rule leaves of the queue and takes from it, and its event. -/
theorem queueOp_of_effect {q : List Byte} {b : Option Byte} (h : queueEffect op s.queue s.taken = .ok (q, b)) :
    queueOp op s = .next { s with queue := q, taken := b, history := s.history ++ [.queueOp op] } := by
  simp only [queueOp, hmode, h]

/-- A take from the empty queue is refused (R212, R214). -/
theorem queueOp_underflow (hop : op = .qFirst ∨ op = .qSubseq) (hempty : s.queue = []) :
    queueOp op s = .refused .queueUnderflow := by
  rcases hop with rfl | rfl <;> simp only [queueOp, hmode, hempty, queueEffect]

/-- Q_FIRST and Q_SUBSEQ have one effect: they take the head byte (R212, R214). -/
theorem queueOp_take (hop : op = .qFirst ∨ op = .qSubseq) {b : Byte} {rest : List Byte} (hq : s.queue = b :: rest) :
    queueOp op s = .next { s with queue := rest, taken := some b, history := s.history ++ [.queueOp op] } := by
  refine queueOp_of_effect hmode ?_
  rcases hop with rfl | rfl <;> rw [hq] <;> rfl

end

/-! The queue an observer keeps (R215). -/

/-- The type pins show a FETCH in maximum mode only: minimum mode's control levels cannot tell it (R176). -/
theorem typePins_fetch (m : Mode) (held : Bool) (d : Nat) (r : BusReq) :
    (typePins m held d r).strobes.fetch = true ↔ r.kind = .fetch ∧ m = .max := by
  cases m <;> cases hk : r.kind <;> simp [typePins, maxPins, TypePins.strobes, Kind.code, hk]

/-- The record of a cycle tells what the cycle did to the queue: a maximum-mode FETCH appends the lanes it shows. -/
theorem replayQueue_cycle {r : BusReq} {s : State} {p : CyclePart} (h : cyclePart r s = .ok p) :
    replayQueue s.queue (.cycle (p.pinRecord r s)) = p.queue := by
  have hshown : (p.pinRecord r s).strobes.fetch = true ↔ r.kind = .fetch ∧ s.cfg.mode = .max :=
    typePins_fetch _ _ _ r
  rcases cyclePart_queue h with ⟨hk, hmode, hq, -⟩ | ⟨hno, hq⟩
  · rw [replayQueue, if_pos (hshown.mpr ⟨hk, hmode⟩), hq]
    rfl
  · rw [replayQueue, if_neg fun hfetch => hno (hshown.mp hfetch), hq]

/-- The code on QS1 QS0 tells what a queue operation did to the queue. -/
theorem replayQueue_queueOp {op : QOp} {q q' : List Byte} {b b' : Option Byte}
    (h : queueEffect op q b = .ok (q', b')) : replayQueue q (.queueOp op) = q' := by
  unfold queueEffect at h
  split at h <;> cases h <;> rfl

/-- From the events alone an observer of the queue at the start has the queue at the end. -/
def ReplaysQueue (s : State) (es : List Event) (t : State) : Prop := t.queue = es.foldl replayQueue s.queue

section
variable {s t : State}

theorem ReplaysQueue.append {s' : State} {es fs : List Event} (h : ReplaysQueue s es s') (h' : ReplaysQueue s' fs t) :
    ReplaysQueue s (es ++ fs) t := by
  unfold ReplaysQueue at h h' ⊢
  rw [h', h, List.foldl_append]

theorem exec_replaysQueue {i : Instr} (h : exec i s = .next t) : ∃ es, Emits ReplaysQueue s es t := by
  rcases exec_next h with ⟨r, hcycle⟩ | ⟨op, hqueue⟩ | hlock
  · obtain ⟨p, -, hp, rfl⟩ := busCycle_next hcycle
    exact ⟨_, rfl, (replayQueue_cycle hp).symm⟩
  · obtain ⟨-, q, b, hq, rfl⟩ := queueOp_next hqueue
    exact ⟨[.queueOp op], rfl, (replayQueue_queueOp hq).symm⟩
  · obtain ⟨-, rfl⟩ := lockPrefixOp_next hlock
    exact ⟨[], (List.append_nil _).symm, rfl⟩

/-- A step's event moves the queue as the step did; OTHER's cycles and LOCK_END leave it. -/
theorem step_replaysQueue (h : step s = .next t) : ∃ es, Emits ReplaysQueue s es t := by
  rcases step_next h with ⟨r, s', hturn, hother⟩ | ⟨s', hsame, hend⟩ | ⟨i, f, s', u, hsame, hexec, rfl⟩
  · obtain ⟨-, _, _, -, -, rfl⟩ := otherTurn_some hturn
    obtain ⟨-, ⟨-, rfl⟩ | ⟨-, rfl⟩⟩ := otherCycle_next hother <;> exact ⟨_, rfl, rfl⟩
  · obtain ⟨-, rfl⟩ := lockEnd_next hend
    exact ⟨[.lockEnd], congrArg (· ++ [Event.lockEnd]) hsame.history, hsame.queue⟩
  · obtain ⟨es, hes, hqueue⟩ := exec_replaysQueue hexec
    refine ⟨es, by rw [finish_history, hes, hsame.history], ?_⟩
    rw [ReplaysQueue, finish_queue, hqueue, hsame.queue]

end

end Sys2Proof.Machine

open Sys2Proof Sys2Proof.Machine

/-- Settles O59, by induction on the number of steps (`run_newEvents`): each event, replayed, is what its step did to
the queue (`step_replaysQueue`). The queue's mechanism is log 23's. -/
theorem observerKeepsACopyOfTheQueue : Obligations.ObserverKeepsACopyOfTheQueue :=
  run_newEvents (P := ReplaysQueue) (fun _ => rfl) .append step_replaysQueue

/-- Settles O27: the rule of Q_IDLE gives back the queue it finds. -/
theorem queueIdleLeavesTheQueue : Obligations.QueueIdleLeavesTheQueue :=
  ⟨encode_qopInstr .qIdle, fun s hmode => (exec_qopInstr .qIdle s).trans (queueOp_of_effect hmode rfl)⟩

/-- Settles O28: Q_FIRST is one of the two takes (`queueOp_take`, `queueOp_underflow`). -/
theorem queueFirstTakesTheHeadByte : Obligations.QueueFirstTakesTheHeadByte :=
  ⟨encode_qopInstr .qFirst, fun s hmode =>
    ⟨fun hempty => (exec_qopInstr .qFirst s).trans (queueOp_underflow hmode (.inl rfl) hempty),
      fun _ _ hq => (exec_qopInstr .qFirst s).trans (queueOp_take hmode (.inl rfl) hq)⟩⟩

/-- Settles O29: the rule of Q_EMPTY does not look at the queue. -/
theorem queueEmptyDiscardsTheQueue : Obligations.QueueEmptyDiscardsTheQueue :=
  ⟨encode_qopInstr .qEmpty, fun s hmode => (exec_qopInstr .qEmpty s).trans (queueOp_of_effect hmode rfl)⟩

/-- Settles O30: Q_SUBSEQ is the other take (`queueOp_take`, `queueOp_underflow`). -/
theorem queueSubsequentTakesTheHeadByte : Obligations.QueueSubsequentTakesTheHeadByte :=
  ⟨encode_qopInstr .qSubseq, fun s hmode =>
    ⟨fun hempty => (exec_qopInstr .qSubseq s).trans (queueOp_underflow hmode (.inr rfl) hempty),
      fun _ _ hq => (exec_qopInstr .qSubseq s).trans (queueOp_take hmode (.inr rfl) hq)⟩⟩

end

section
/-! PROOFS. LOCK (42_lock_and_queue_status.md R200 to R205): `LOCK:` and LOCK_END, what minimum mode refuses, what a
cycle does to the lock, and that OTHER is kept off the bus (R202, 60_exceptions.md R243). `lockPrefix` is log 12's. -/

namespace Sys2Proof.Machine

open Stated

/-! `LOCK:` and LOCK_END (R200, R201, R203, R205). -/

theorem exec_lock (s : State) : exec .lock s = lockPrefixOp s := rfl

theorem lockPrefixOp_of_max {s : State} (hmode : s.cfg.mode = .max) :
    lockPrefixOp s = .next { s with lockPrefix := true, req := s.req.withLock true } := by
  simp only [lockPrefixOp, hmode]

theorem lockPrefixOp_of_min {s : State} (hmode : s.cfg.mode = .min) : lockPrefixOp s = .refused .lockInMinMode := by
  simp only [lockPrefixOp, hmode]

theorem lockEnd_of_max {s : State} (hmode : s.cfg.mode = .max) :
    lockEnd s = .next { s with
      lockHeld := false, lockPrefix := false, req := s.req.withLock false, history := s.history ++ [.lockEnd] } := by
  simp only [lockEnd, hmode]

theorem lockEnd_of_min {s : State} (hmode : s.cfg.mode = .min) : lockEnd s = .refused .eventNotInMinMode := by
  simp only [lockEnd, hmode]

/-- LOCK_END handed over is what the bus interface takes up (R205). -/
theorem biuStep_of_pending_lockEnd {s : State} {rest : List EnvInput} (hp : s.pending = .lockEnd :: rest) :
    biuStep s = lockEnd { s with pending := rest } := by
  simp only [biuStep, fetchInput, hp]

/-- A request with `lock` is refused in minimum mode before its kind's rule is asked (R161, R203). -/
theorem busCycle_lockInMinMode {r : BusReq} {s : State} (hmode : s.cfg.mode = .min) (hlock : r.lock = true) :
    busCycle r s = .refused .lockInMinMode := by
  simp only [busCycle, hlock, hmode]
  rfl

/-! When OTHER has no turn (R202, R243). -/

/-- OTHER may not move while the lock is held, in minimum mode, or when absent. -/
theorem otherEnabled_eq_false {s : State}
    (h : s.lockHeld = true ∨ s.cfg.mode = .min ∨ s.cfg.otherMaster = false) : s.otherEnabled = false := by
  rcases h with h | h | h <;> simp [State.otherEnabled, h]

theorem otherTurn_of_disabled {s : State} (h : s.otherEnabled = false) : otherTurn s = none := by
  cases hturn : otherTurn s with
  | none => rfl
  | some p =>
    obtain ⟨henabled, -⟩ := otherTurn_some (r := p.1) (s' := p.2) hturn
    rw [h] at henabled
    cases henabled

/-- A turn OTHER may not use passes to the 8086 (log 15). -/
theorem step_of_disabled {s : State} (h : s.otherEnabled = false) :
    step s = biuStep { s with turns := s.turns.tail } := by
  simp only [step, otherTurn_of_disabled h]

/-- OTHER's list stays and none of the events is a cycle of its. -/
def LeavesOther (s : State) (es : List Event) (t : State) : Prop :=
  t.otherPending = s.otherPending ∧ ∀ e ∈ es, ∀ a b w hi lo, e ≠ .other a b w hi lo

theorem exec_leavesOther {i : Instr} {s t : State} (h : exec i s = .next t) : ∃ es, Emits LeavesOther s es t := by
  rcases exec_next h with ⟨r, hcycle⟩ | ⟨op, hqueue⟩ | hlock
  · obtain ⟨p, -, -, rfl⟩ := busCycle_next hcycle
    exact ⟨_, rfl, rfl, by simp⟩
  · obtain ⟨-, q, b, -, rfl⟩ := queueOp_next hqueue
    exact ⟨[.queueOp op], rfl, rfl, by simp⟩
  · obtain ⟨-, rfl⟩ := lockPrefixOp_next hlock
    exact ⟨[], (List.append_nil _).symm, rfl, by simp⟩

/-- With OTHER kept off, the step is the 8086's own: an instruction or LOCK_END. -/
theorem step_leavesOther {s t : State} (hoff : s.otherEnabled = false) (h : step s = .next t) :
    ∃ es, Emits LeavesOther s es t := by
  rcases step_next h with ⟨r, s', hturn, -⟩ | ⟨s', hsame, hend⟩ | ⟨i, f, s', u, hsame, hexec, rfl⟩
  · rw [otherTurn_of_disabled hoff] at hturn
    cases hturn
  · obtain ⟨-, rfl⟩ := lockEnd_next hend
    exact ⟨[.lockEnd], congrArg (· ++ [Event.lockEnd]) hsame.history, hsame.otherPending, by simp⟩
  · obtain ⟨es, hes, hpending, hevents⟩ := exec_leavesOther hexec
    exact ⟨es, by rw [finish_history, hes, hsame.history],
      by rw [finish_otherPending, hpending, hsame.otherPending], hevents⟩

/-! What a bus cycle does to the lock (R200). -/

/-- A completed cycle in maximum mode shows R200's level on LOCK#. -/
theorem pinRecord_typePins_of_max {s : State} (hmode : s.cfg.mode = .max) (p : CyclePart) (r : BusReq) :
    (p.pinRecord r s).typePins = .max (maxPins s.lockHeld r) := by
  simp only [CyclePart.pinRecord, typePins, hmode]

@[simp] theorem maxPins_lockN (held : Bool) (r : BusReq) : (maxPins held r).lockN = lockLevel held r := rfl

/-- A cycle other than PASSIVE leaves the lock its request carries, shows it on LOCK#, and ends `lockPrefix` when
the request carries none. -/
theorem busCycle_lock {r : BusReq} {s t : State} (hcycle : r.kind ≠ .passive) (h : busCycle r s = .next t) :
    t.lockHeld = r.lock ∧ t.lockPrefix = (s.lockPrefix && r.lock)
      ∧ (s.cfg.mode = .max → ∃ p q, lastRecord t = some p ∧ p.typePins = .max q ∧ q.lockN = !r.lock) := by
  obtain ⟨p, -, -, rfl⟩ := busCycle_next h
  obtain ⟨hheld, hprefix, hlevel⟩ := lockAfter_cycle hcycle s.lockHeld s.lockPrefix
  exact ⟨hheld, hprefix, fun hmode =>
    ⟨_, _, lastRecord_closeCycle _ _ _, pinRecord_typePins_of_max hmode p r, hlevel⟩⟩

/-- A PASSIVE step keeps the lock and `lockPrefix`. -/
theorem busCycle_passive_lock {r : BusReq} {s t : State} (hpassive : r.kind = .passive) (h : busCycle r s = .next t) :
    t.lockHeld = s.lockHeld ∧ t.lockPrefix = s.lockPrefix := by
  obtain ⟨p, -, -, rfl⟩ := busCycle_next h
  obtain ⟨hheld, hprefix, -⟩ := lockAfter_passive hpassive s.lockHeld s.lockPrefix
  exact ⟨hheld, hprefix⟩

/-- No cycle of a request with `lock` ends `lockPrefix`. -/
theorem busCycle_keepsPrefix {r : BusReq} {s t : State} (hprefix : s.lockPrefix = true) (hlock : r.lock = true)
    (h : busCycle r s = .next t) : t.lockPrefix = true := by
  by_cases hk : r.kind = .passive
  · rw [(busCycle_passive_lock hk h).2, hprefix]
  · obtain ⟨-, hprefix', -⟩ := busCycle_lock hk h
    rw [hprefix', hprefix, hlock]
    rfl

/-- No bus cycle changes the request on the pins. -/
theorem busCycle_req {r : BusReq} {s t : State} (h : busCycle r s = .next t) : t.req = s.req := by
  obtain ⟨p, -, -, rfl⟩ := busCycle_next h
  rfl

/-- The instructions that are no bus cycle are the queue operations and LOCK. -/
theorem exec_next_of_noCycle {i : Instr} {s t : State} (hi : isCycleCode i = false) (h : exec i s = .next t) :
    (∃ op, queueOp op s = .next t) ∨ lockPrefixOp s = .next t := by
  cases i
  case lock => exact .inr h
  case qIdle => exact .inl ⟨.qIdle, h⟩
  case qFirst => exact .inl ⟨.qFirst, h⟩
  case qEmpty => exact .inl ⟨.qEmpty, h⟩
  case qSubseq => exact .inl ⟨.qSubseq, h⟩
  all_goals cases hi

/-- Queue operations and LOCK keep the lock, and a `lockPrefix` and a request's `lock` that are set. -/
theorem exec_keepsLock_of_noCycle {i : Instr} {s t : State} (hi : isCycleCode i = false) (h : exec i s = .next t) :
    t.lockHeld = s.lockHeld ∧ (s.lockPrefix = true → t.lockPrefix = true)
      ∧ (s.req.lock = true → t.req.lock = true) := by
  rcases exec_next_of_noCycle hi h with ⟨op, hqueue⟩ | hlock
  · obtain ⟨-, q, b, -, rfl⟩ := queueOp_next hqueue
    exact ⟨rfl, id, id⟩
  · obtain ⟨-, rfl⟩ := lockPrefixOp_next hlock
    exact ⟨rfl, fun _ => rfl, fun _ => rfl⟩

/-! The cycles of a prefixed instruction (R201). -/

/-- A request of a prefixed instruction is taken up with `lock`. -/
theorem fetchInput_of_prefixed_instrCycle {s : State} {r : BusReq} {rest : List EnvInput}
    (hprefix : s.lockPrefix = true) (hp : s.pending = .instrCycle r :: rest) :
    fetchInput s = presentRequest (r.withLock true) .nothing rest s := by
  rw [fetchInput_of_pending_instrCycle hp, hprefix]

/-- And so is an access primitive of one. -/
theorem fetchInput_of_prefixed_instrAccess {s : State} {x : Access} {rest : List EnvInput}
    (hprefix : s.lockPrefix = true) (hp : s.pending = .instrAccess x :: rest) :
    fetchInput s = presentAccess (x.withLock true) rest s := by
  rw [fetchInput_of_pending_instrAccess hp, hprefix]

/-- A locked cycle of a prefixed instruction holds LOCK# low, and the lock and `lockPrefix` stay. -/
theorem lockedLow_of_busCycle {r : BusReq} {s t : State} (hmode : s.cfg.mode = .max) (hprefix : s.lockPrefix = true)
    (hreq : s.req.lock = true) (hlock : r.lock = true) (hcycle : r.kind ≠ .passive) (h : busCycle r s = .next t) :
    LockedLow t := by
  obtain ⟨hheld, -, hpins⟩ := busCycle_lock hcycle h
  rw [hlock] at hheld hpins
  exact ⟨busCycle_keepsPrefix hprefix hlock h, by rw [busCycle_req h, hreq], hheld, hpins hmode⟩

/-- What is done with the read data touches no lock. -/
theorem lockedLow_finish {t : State} (f : Finish) (h : LockedLow t) : LockedLow (finish f t) := by
  simpa only [LockedLow, lastRecord, finish_lockPrefix, finish_req, finish_lockHeld, finish_history] using h

/-- A step that takes up a request and completes is that request's cycle, and its read data is finished. -/
theorem step_next_of_presentRequest {s t : State} {r : BusReq} {f : Finish} {rest : List EnvInput} (hb : BiuTurn s)
    (hfetch : fetchInput { s with turns := s.turns.tail } = presentRequest r f rest { s with turns := s.turns.tail })
    (h : step s = .next t) :
    ∃ u, busCycle r { s with turns := s.turns.tail, req := r, pending := rest } = .next u ∧ t = finish f u := by
  have hexec : step s
      = finishOutcome f (busCycle r { s with turns := s.turns.tail, req := r, pending := rest }) := by
    simp only [step_of_biuTurn hb, biuStep, hfetch, presentRequest, decode_kindWord, exec_kindInstr]
    rfl
  rw [hexec] at h
  cases hcycle : busCycle r { s with turns := s.turns.tail, req := r, pending := rest } with
  | next u =>
    rw [hcycle] at h
    injection h with h
    exact ⟨u, rfl, h.symm⟩
  | fault e => cases e
  | refused e => rw [hcycle] at h; cases h

/-- A locked request taken up while `lockPrefix` is set holds LOCK# low, and the inputs behind it are next. -/
theorem lockedLow_of_presentRequest {s t : State} {r : BusReq} {f : Finish} {rest : List EnvInput}
    (hmode : s.cfg.mode = .max) (hprefix : s.lockPrefix = true) (hb : BiuTurn s)
    (hfetch : fetchInput { s with turns := s.turns.tail } = presentRequest r f rest { s with turns := s.turns.tail })
    (hlock : r.lock = true) (hcycle : r.kind ≠ .passive) (h : step s = .next t) :
    LockedLow t ∧ t.req = r ∧ t.pending = rest := by
  obtain ⟨u, hbus, rfl⟩ := step_next_of_presentRequest hb hfetch h
  have hlow : LockedLow u := lockedLow_of_busCycle
    (s := { s with turns := s.turns.tail, req := r, pending := rest }) hmode hprefix hlock hlock hcycle hbus
  refine ⟨lockedLow_finish f hlow, ?_, ?_⟩
  · rw [finish_req, busCycle_req hbus]
  · obtain ⟨p, -, -, rfl⟩ := busCycle_next hbus
    rw [finish_pending]
    rfl

/-- The first request of a primitive is one of its requests: of its kind, with its `lock` (R72). -/
theorem exists_request_of_first {x : Access} {c : Cfg} {idle : Byte} {r : BusReq} (h : x.first c idle = .ok r) :
    ∃ a bheN w, r = x.request a bheN w := by
  unfold Access.first at h
  split at h
  · split at h
    · cases h
    · split at h
      · cases h
      · injection h with h
        exact ⟨_, _, _, h.symm⟩
  · split at h
    · injection h with h
      exact ⟨_, _, _, h.symm⟩
    · split at h <;> injection h with h <;> exact ⟨_, _, _, h.symm⟩

/-- No primitive asks for a PASSIVE step (R72 to R74). -/
theorem accessKind_ne_passive (k : AccessKind) : k.kind ≠ .passive := by cases k <;> decide

/-! A cycle with and without `lock` (R204). -/

/-- The rule of no kind reads the request's `lock`. -/
theorem cyclePart_withLock (r : BusReq) (b : Bool) (s : State) : cyclePart (r.withLock b) s = cyclePart r s := rfl

theorem cycleRequest_withLock (r : BusReq) (b : Bool) (i : Instr) :
    cycleRequest (r.withLock b) i = (cycleRequest r i).withLock b := by
  cases i <;> rfl

/-- In maximum mode a code whose cycle has a part completes with that part when the request on the pins is locked. -/
theorem exec_withLock {i : Instr} {s : State} {p : CyclePart} (hi : isCycleCode i = true) (hmode : s.cfg.mode = .max)
    (hp : cyclePart (cycleRequest s.req i) s = .ok p) :
    exec i { s with req := s.req.withLock true }
      = .next ({ s with req := s.req.withLock true }.closeCycle ((cycleRequest s.req i).withLock true) p) := by
  rw [exec_eq_busCycle _ hi, cycleRequest_withLock]
  exact busCycle_of_part (s := { s with req := s.req.withLock true }) (lock_not_refused (.inl hmode)) hp

end Sys2Proof.Machine

open Sys2Proof Sys2Proof.Machine Sys2Proof.Stated

/-- Settles O18: the lock is asked about before the kind's rule, and every code's request has the current one's
`lock`. -/
theorem lockIsRefusedInMinimumMode : Obligations.LockIsRefusedInMinimumMode := by
  intro s i hmode
  refine ⟨fun hi hlock => ?_, (exec_lock s).trans (lockPrefixOp_of_min hmode)⟩
  rw [exec_eq_busCycle s hi]
  exact busCycle_lockInMinMode hmode ((cycleRequest_lock s.req i).trans hlock)

/-- Settles O31: each operation asks for the mode first, and in minimum mode every step is the 8086's own. -/
theorem queueOperationsAndLockEndNeedMaximumMode : Obligations.QueueOperationsAndLockEndNeedMaximumMode := by
  intro s rest hmode
  have hqueue : ∀ op : QOp, exec op.instr s = .refused .eventNotInMinMode :=
    fun op => (exec_qopInstr op s).trans (queueOp_of_min op hmode)
  refine ⟨hqueue .qIdle, hqueue .qFirst, hqueue .qEmpty, hqueue .qSubseq, fun hp => ?_⟩
  calc step s = biuStep { s with turns := s.turns.tail } :=
        step_of_disabled (otherEnabled_eq_false (.inr (.inl hmode)))
    _ = lockEnd { s with turns := s.turns.tail, pending := rest } := biuStep_of_pending_lockEnd hp
    _ = .refused .eventNotInMinMode := lockEnd_of_min hmode

/-- Settles O33: a code's cycle, a request taken up and both cycles of a primitive are each one locked bus cycle
(`lockedLow_of_busCycle`, `lockedLow_of_presentRequest`). `lockPrefix` is log 12's, the second cycle's place log
33's. -/
theorem prefixedCyclesHoldLockLow : Obligations.PrefixedCyclesHoldLockLow := by
  intro s t hmode hprefix
  refine ⟨fun i hreq h => ?code, fun r rest hb hp hkind h => ?request, fun x rest hb hp h => ?access,
    fun x rest hb hp h => ?second⟩
  case code =>
    cases hi : isCycleCode i with
    | false =>
      obtain ⟨-, hkept, hkept'⟩ := exec_keepsLock_of_noCycle hi h
      exact ⟨hkept hprefix, hkept' hreq, nofun⟩
    | true =>
      rw [exec_eq_busCycle s hi] at h
      rw [← cycleRequest_kind s hi]
      have hlock : (cycleRequest s.req i).lock = true := (cycleRequest_lock s.req i).trans hreq
      exact ⟨busCycle_keepsPrefix hprefix hlock h, by rw [busCycle_req h, hreq],
        fun _ hcycle => lockedLow_of_busCycle hmode hprefix hreq hlock hcycle h⟩
  case request =>
    have hfetch := fetchInput_of_prefixed_instrCycle (s := { s with turns := s.turns.tail }) hprefix hp
    obtain ⟨hlow, hreq, -⟩ := lockedLow_of_presentRequest hmode hprefix hb hfetch rfl hkind h
    exact ⟨hlow, hreq⟩
  case access =>
    have hfetch := fetchInput_of_prefixed_instrAccess (s := { s with turns := s.turns.tail }) hprefix hp
    rcases presentAccess_cases (x.withLock true) rest { s with turns := s.turns.tail }
      with ⟨e, -, he⟩ | ⟨r, hfirst, hr⟩
    · rw [step_of_biuTurn hb, biuStep, hfetch, he] at h
      cases h
    · obtain ⟨a, bheN, w, rfl⟩ := exists_request_of_first hfirst
      obtain ⟨hlow, -, hpending⟩ := lockedLow_of_presentRequest hmode hprefix hb (hfetch.trans hr) rfl
        (accessKind_ne_passive x.kind) h
      refine ⟨hlow, hpending.trans ?_⟩
      simp only [Access.oddWord, Bool.and_eq_true]
      rfl
  case second =>
    have hfetch := fetchInput_accessRest (s := { s with turns := s.turns.tail }) hp
    obtain ⟨hlow, -, hpending⟩ := lockedLow_of_presentRequest hmode hprefix hb hfetch rfl
      (accessKind_ne_passive x.kind) h
    exact ⟨hlow, hpending⟩

/-- Settles O34: a cycle's lock is its request's, shown on LOCK# (`busCycle_lock`); nothing else moves the lock.
`lockPrefix` is log 12's. -/
theorem lockFollowsTheCyclesRequest : Obligations.LockFollowsTheCyclesRequest := by
  intro i s t h
  cases hi : isCycleCode i with
  | false =>
    obtain ⟨hheld, -⟩ := exec_keepsLock_of_noCycle hi h
    exact ⟨nofun, fun _ => hheld⟩
  | true =>
    rw [exec_eq_busCycle s hi] at h
    rw [← cycleRequest_kind s hi, ← cycleRequest_lock s.req i]
    refine ⟨fun _ hcycle => busCycle_lock hcycle h, ?_⟩
    rintro (hno | hpassive)
    · cases hno
    · exact (busCycle_passive_lock hpassive h).1

/-- Settles O35: the kind's rule does not read `lock`, so the locked cycle completes with the same part, and its type
pins differ in LOCK# alone. -/
theorem lockDoesNotChangeTheCycle : Obligations.LockDoesNotChangeTheCycle := by
  intro i s t hmode _ hi h
  rw [exec_eq_busCycle s hi] at h
  obtain ⟨p, -, hp, rfl⟩ := busCycle_next h
  have hlocked := exec_withLock hi hmode hp
  have hpins := pinRecord_typePins_of_max (s := { s with req := s.req.withLock true }) hmode p
  exact ⟨_, _, _, hlocked, rfl, rfl, rfl, lastRecord_closeCycle _ _ _, lastRecord_closeCycle _ _ _,
    rfl, rfl, rfl, rfl, _, _, pinRecord_typePins_of_max hmode p _, hpins _, rfl, rfl, rfl⟩

/-- Settles O37: OTHER is not enabled, so the step is the 8086's own (`step_leavesOther`). -/
theorem lockedOutOtherMasterHasNoStep : Obligations.LockedOutOtherMasterHasNoStep := by
  intro s t hoff h
  obtain ⟨es, hes, hpending, hevents⟩ := step_leavesOther (otherEnabled_eq_false hoff) h
  rw [newEvents_of_history hes]
  exact ⟨hpending, hevents⟩

/-- Settles O5: on the 8086's turn LOCK_END is what is taken up. What ends beside the lock is log 12's choice. -/
theorem lockEndReleasesTheLock : Obligations.LockEndReleasesTheLock := by
  intro s rest hb hmode hp
  calc step s = biuStep { s with turns := s.turns.tail } := step_of_biuTurn hb
    _ = lockEnd { s with turns := s.turns.tail, pending := rest } := biuStep_of_pending_lockEnd hp
    _ = _ := lockEnd_of_max hmode

/-- Settles O32: in maximum mode LOCK is not refused. That `lockPrefix` is held in State is log 12's form. -/
theorem lockPrefixChangesOnlyThePrefixState : Obligations.LockPrefixChangesOnlyThePrefixState :=
  fun s hmode => (exec_lock s).trans (lockPrefixOp_of_max hmode)

end

section
/-! PROOFS. The second bus master's cycle (60_exceptions.md R244, R245), and the interrupt acknowledge (R234). -/

namespace Sys2Proof.Machine

open Stated

/-! When OTHER has a turn, and what its cycle does (R202, R243, R244). -/

theorem otherEnabled_iff {s : State} :
    s.otherEnabled = true ↔ s.cfg.mode = .max ∧ s.cfg.otherMaster = true ∧ s.lockHeld = false := by
  simp [State.otherEnabled, and_assoc]

/-- OTHER's turn, when it may use it and has a cycle, is that cycle (log 15). -/
theorem step_of_otherTurn {s : State} {r : OtherReq} {turns : List Agent} {rest : List OtherReq}
    (henabled : s.otherEnabled = true) (hturns : s.turns = .other :: turns) (hp : s.otherPending = r :: rest) :
    step s = otherCycle r { s with turns := turns, otherPending := rest } := by
  simp only [step, otherTurn, hturns, hp, henabled, if_true]

section
variable {s : State} {r : OtherReq} (hf : formOf r.bheN r.addr ≠ .noForm)
include hf

theorem otherCycle_read (hread : r.isWrite = false) :
    otherCycle r s = .next { s with
      history := s.history ++ [.other r.addr r.bheN false (readHi s r.addr r.bheN) (readLo s r.addr)] } := by
  simp [otherCycle, hf, hread, readLanes_memSpace]

theorem otherCycle_write (hwrite : r.isWrite = true) :
    otherCycle r s = .next { s with
      mem := writeLanes s.mem r.addr r.bheN r.wdata
      history := s.history
        ++ [.other r.addr r.bheN true (some (hiByte r.wdata)) (some (loByte r.wdata))] } := by
  simp [otherCycle, hf, hwrite, drivenLanes]

end

/-! Consecutive INTA cycles (R162, R234). -/

/-- The event is a cycle with INTA's levels, 000, on S2# S1# S0#. -/
def ShowsInta (e : Event) : Prop :=
  ∃ p q, e = .cycle p ∧ p.typePins = .max q ∧ q.s2N = false ∧ q.s1N = false ∧ q.s0N = false

/-- From `s` to `t` just `n` INTA cycles enter the history; the configuration, memory, the queue and an empty list of
turns stay. -/
structure IntaCycles (n : Nat) (s t : State) : Prop where
  cfg : t.cfg = s.cfg
  mem : t.mem = s.mem
  queue : t.queue = s.queue
  turns : s.turns = [] → t.turns = []
  events : ∃ es, t.history = s.history ++ es ∧ es.length = n ∧ ∀ e ∈ es, ShowsInta e

theorem IntaCycles.zero (s : State) : IntaCycles 0 s s :=
  ⟨rfl, rfl, rfl, id, [], (List.append_nil _).symm, rfl, fun _ => (absurd · List.not_mem_nil)⟩

theorem IntaCycles.trans {m n : Nat} {s t u : State} (h : IntaCycles m s t) (h' : IntaCycles n t u) :
    IntaCycles (n + m) s u := by
  obtain ⟨es, hes, hlen, hshow⟩ := h.events
  obtain ⟨fs, hfs, hlen', hshow'⟩ := h'.events
  exact ⟨h'.cfg.trans h.cfg, h'.mem.trans h.mem, h'.queue.trans h.queue, h'.turns ∘ h.turns, es ++ fs,
    by rw [hfs, hes, List.append_assoc], by rw [List.length_append, hlen, hlen', Nat.add_comm],
    fun e he => (List.mem_append.mp he).elim (hshow e) (hshow' e)⟩

/-- In maximum mode the cycle of an INTA request shows INTA's levels (R160). -/
theorem showsInta_pinRecord {s : State} {r : BusReq} (hmode : s.cfg.mode = .max) (hk : r.kind = .inta)
    (p : CyclePart) : ShowsInta (.cycle (p.pinRecord r s)) :=
  ⟨_, _, rfl, pinRecord_typePins_of_max hmode p r, by simp [maxPins, hk, Kind.code]⟩

/-- An INTA request with CS_NONE handed over in maximum mode is one INTA cycle. -/
theorem step_intaRequest {s : State} {r : BusReq} {rest : List EnvInput} (hmode : s.cfg.mode = .max)
    (hturns : s.turns = []) (hk : r.kind = .inta) (hseg : r.seg = .csNone) (hp : s.pending = .cycle r :: rest) :
    ∃ t, step s = .next t ∧ IntaCycles 1 s t ∧ t.pending = rest := by
  have hstep := step_of_cycle (.inl hturns) (fetchInput_of_pending_cycle hp) (.inl hmode) (cyclePart_inta s hk hseg)
  refine ⟨_, hstep, ⟨rfl, rfl, rfl, congrArg List.tail, _, rfl, rfl, ?_⟩, rfl⟩
  exact List.forall_mem_singleton.mpr (showsInta_pinRecord hmode hk _)

/-- INTA requests handed over one behind the other run as that many INTA cycles. -/
theorem run_intaRequests (rs : List BusReq) (hrs : ∀ r ∈ rs, r.kind = .inta ∧ r.seg = .csNone) :
    ∀ {s : State} {rest : List EnvInput}, s.cfg.mode = .max → s.turns = [] → s.pending = rs.map .cycle ++ rest →
      ∃ t, Host.Core.run core rs.length s = .next t ∧ IntaCycles rs.length s t ∧ t.pending = rest := by
  induction rs with
  | nil => exact fun {s rest} _ _ hp => ⟨s, rfl, .zero s, hp⟩
  | cons r rs ih =>
    intro s rest hmode hturns hp
    obtain ⟨⟨hk, hseg⟩, hrs⟩ := List.forall_mem_cons.mp hrs
    obtain ⟨s', hstep, hone, hp'⟩ := step_intaRequest hmode hturns hk hseg hp
    obtain ⟨t, hrun, hmany, hrest⟩ := ih hrs (hone.cfg ▸ hmode) (hone.turns hturns) hp'
    exact ⟨t, (run_of_step hstep).trans hrun, hone.trans hmany, hrest⟩

/-! An acknowledge as its requests (R234, log 27). -/

/-- Every acknowledge has a cycle when the configuration is well formed (D20). -/
theorem intaCycles_pos {c : Cfg} (h : c.wf = true) : 1 ≤ c.intaCycles := by
  simp only [Cfg.wf, Cfg.intaCyclesOk, Bool.and_eq_true, decide_eq_true_eq] at h
  exact h.2

/-- The acknowledge is taken up as the first of its requests handed over one by one. -/
theorem fetchInput_acknowledge_eq_cycles {s : State} {r : BusReq} {rest : List EnvInput} (hwf : s.cfg.wf = true)
    (hp : s.pending = .acknowledge r :: rest) :
    fetchInput s = fetchInput { s with pending := (acknowledgeRequests s.cfg r).map .cycle ++ rest } := by
  obtain ⟨n, hn⟩ := Nat.exists_eq_add_of_le' (intaCycles_pos hwf)
  have hcycles : (acknowledgeRequests s.cfg r).map EnvInput.cycle ++ rest
      = .cycle (r.withKind .inta) :: (((acknowledgeRequests s.cfg r).drop 1).map .cycle ++ rest) := by
    rw [acknowledgeRequests, hn]
    rfl
  have hacknowledge : fetchInput s = presentRequest (r.withKind .inta) .nothing
      (((acknowledgeRequests s.cfg r).drop 1).map .cycle ++ rest) s := by
    simp only [fetchInput, hp]
  rw [hacknowledge, fetchInput_of_pending_cycle (s := { s with pending := _ }) hcycles]
  rfl

/-- States with the same first step have the same runs of one step or more. -/
theorem run_congr_step {n : Nat} {s s' : State} (hn : 1 ≤ n) (h : step s = step s') :
    Host.Core.run core n s = Host.Core.run core n s' := by
  obtain ⟨k, rfl⟩ := Nat.exists_eq_add_of_le' hn
  have hcore : core.step s = core.step s' := h
  simp only [Host.Core.run, hcore]

end Sys2Proof.Machine

open Sys2Proof Sys2Proof.Machine Sys2Proof.Stated

/-- Settles O36: OTHER's turn is its cycle (`step_of_otherTurn`), a read by the lane rule or a write by it
(`writeLanes`). The turns are log 15's form, the two lanes in the event log 17's. -/
theorem otherMastersCycleFollowsTheLanes : Obligations.OtherMastersCycleFollowsTheLanes := by
  intro s r turns rest hmode hpresent hfree hwf hturns hp hsel
  have hf : formOf r.bheN r.addr ≠ .noForm := by
    rcases hsel with h | h <;> simp [formOf_eq_noForm, h]
  have hstep := step_of_otherTurn (otherEnabled_iff.mpr ⟨hmode, hpresent, hfree⟩) hturns hp
  refine ⟨fun hread => hstep.trans (otherCycle_read hf hread), fun hwrite => ?_⟩
  exact ⟨_, hstep.trans (otherCycle_write hf hwrite), fun hhi => writeLanes_read_hi hwf (congrArg not hhi),
    fun hlo => writeLanes_read_lo hwf (congrArg not hlo), fun _ hx => writeLanes_read_other hx⟩

/-- Settles O46: the acknowledge steps as its INTA requests handed over one by one, and each of those is one INTA
cycle (`run_intaRequests`). That one input stands for them is log 27's form. -/
theorem acknowledgeIsConsecutiveIntaCycles : Obligations.AcknowledgeIsConsecutiveIntaCycles := by
  intro s r hmode hwf hseg hturns hp
  have hinta : ∀ r' ∈ acknowledgeRequests s.cfg r, r'.kind = .inta ∧ r'.seg = .csNone := by
    intro r' hr'
    obtain rfl := List.eq_of_mem_replicate hr'
    exact ⟨rfl, hseg⟩
  have hstep := step_congr_pending (.inl hturns)
    (fetchInput_acknowledge_eq_cycles (s := { s with turns := s.turns.tail }) hwf hp)
  obtain ⟨t, hrun, hcycles, hpending⟩ := run_intaRequests (acknowledgeRequests s.cfg r) hinta
    (s := { s with pending := (acknowledgeRequests s.cfg r).map .cycle ++ [] }) hmode hturns rfl
  rw [show (acknowledgeRequests s.cfg r).length = s.cfg.intaCycles from List.length_replicate] at hrun hcycles
  obtain ⟨es, hes, hlen, hshows⟩ := hcycles.events
  exact ⟨t, es, (run_congr_step (intaCycles_pos hwf) hstep).trans hrun, hes, hlen, hcycles.mem, hcycles.queue,
    hpending, hshows⟩

/-- Settles O38: a cycle of OTHER changes at most memory and the history, be it a write or a read
(`otherCycle_next`). -/
theorem otherMasterSharesOnlyMemory : Obligations.OtherMasterSharesOnlyMemory := by
  intro s t r h
  obtain ⟨-, ⟨-, rfl⟩ | ⟨-, rfl⟩⟩ := otherCycle_next h <;> exact ⟨rfl, rfl, rfl, rfl, rfl, rfl, rfl, rfl⟩

end
